-- ==== Sys2Proof/Word.lean ====
section
/-! DEFINITION. The machine's words: bytes, the 32-bit words of commands and of the SHA-256 engine, and the 64-bit registers (R7, R8). -/

namespace Sys2Proof

/-- A byte (R8). -/
abbrev Byte := BitVec 8

/-- A 32-bit word: a command word (R100) or a word of the SHA-256 engine (R2). -/
abbrev Word32 := BitVec 32

/-- A host-visible register: 64 bits (R7, R31). -/
abbrev Reg := BitVec 64

end Sys2Proof
end

