-- ==== Sys2Proof/Syntax.lean ====
section
/-! DEFINITION. The commands of the CORE: one constructor per row of the opcode table (R102). -/

namespace Sys2Proof

/-- The nine legal command words (R102, R105). No command has an operand in its word but INIT, whose ALG field the
table splits into three rows (R103). -/
inductive Instr
  /-- NOP, 0x00000000 (R271) -/
  | nop
  /-- INIT sha256, 0x00000001 (R272) -/
  | initSha256
  /-- INIT sha512, 0x00000101 (R272) -/
  | initSha512
  /-- INIT sha384, 0x00000201 (R272) -/
  | initSha384
  /-- OPEN_BUF, 0x00000002 (R136) -/
  | openBuf
  /-- OPEN_STREAM, 0x00000003 (R138) -/
  | openStream
  /-- NEXT, 0x00000004 (R139) -/
  | next
  /-- COMPRESS, 0x00000005 (R273) -/
  | compress
  /-- RUN, 0x00000006 (R274) -/
  | run
  deriving DecidableEq, Repr

end Sys2Proof
end

