-- ==== Sys2Proof/WellFormed.lean ====
section
/-! DEFINITION. Well-formedness: of an instruction (which has no operand that could be ill-formed), of the value of a CMD write (R101),
and of a host register access (R32 (a)). -/

namespace Sys2Proof

/-- An instruction carries no operand, so every term of Instr is well-formed (R101: "There are no immediates in any
command"). -/
def Instr.wellFormed : Instr → Bool
  | .nop | .initSha256 | .initSha512 | .initSha384 | .openBuf | .openStream | .next | .compress | .run => true

/-- R101: "A command is legal exactly when HI = 0, RSV = 0, OP is one of the assigned opcodes of rule R102, ALGF = 0
if OP is not INIT, and ALGF <= 2 if OP is INIT." Written on numbers, apart from the decoder. -/
def commandLegal (v : BitVec 64) : Bool :=
  let n := v.toNat
  let op := n % 256
  let algf := n / 256 % 4
  n / 2 ^ 32 == 0                        -- HI
    && n / 1024 % 2 ^ 22 == 0            -- RSV
    && decide (op ≤ 6)                   -- OP is assigned
    && (if op == 1 then decide (algf ≤ 2) else algf == 0)

/-- R32 (a): "The host accesses registers only with aligned 64-bit reads and writes." width in bits, off the byte
offset from the window's base. -/
def accessWellFormed (width off : Nat) : Bool :=
  width == 64 && off % 8 == 0

end Sys2Proof
end

