-- ==== Sys2Proof/Decode.lean ====
section
/-! DEFINITION. The command decoder (R101 to R105), total on every 64-bit value of a CMD write, and the encoder (R102). -/

namespace Sys2Proof

/-- Why a CMD write is illegal: the five classes of R104. -/
inductive Illegal
  /-- (a) HI ≠ 0 -/
  | highHalf
  /-- (b) RSV ≠ 0 -/
  | reservedBits
  /-- (c) OP in 0x07 to 0xFF -/
  | opcode
  /-- (d) an ALG field on a command other than INIT -/
  | algField
  /-- (e) INIT with ALGF = 3 -/
  | algReserved
  deriving DecidableEq, Repr

/-- What a CMD write decodes to (R105). -/
inductive Decoded
  | instr (i : Instr)
  | illegal (why : Illegal)
  deriving DecidableEq, Repr

/-- OP = v[7:0] (R101) -/
def fieldOp (v : BitVec 64) : BitVec 8 := v.extractLsb' 0 8
/-- ALGF = v[9:8] (R101) -/
def fieldAlg (v : BitVec 64) : BitVec 2 := v.extractLsb' 8 2
/-- RSV = v[31:10] (R101) -/
def fieldRsv (v : BitVec 64) : BitVec 22 := v.extractLsb' 10 22
/-- HI = v[63:32] (R101) -/
def fieldHi (v : BitVec 64) : BitVec 32 := v.extractLsb' 32 32

/-- The ALG operand of INIT (R103). -/
def decodeInit (a : BitVec 2) : Decoded :=
  if a = 0 then .instr .initSha256
  else if a = 1 then .instr .initSha512
  else if a = 2 then .instr .initSha384
  else .illegal .algReserved

/-- The commands other than INIT, by opcode (R102). -/
def decodePlain (op : BitVec 8) : Option Instr :=
  if op = 0x00 then some .nop
  else if op = 0x02 then some .openBuf
  else if op = 0x03 then some .openStream
  else if op = 0x04 then some .next
  else if op = 0x05 then some .compress
  else if op = 0x06 then some .run
  else none

/-- The decoder of R105. Where a word is illegal for two reasons the reason named is the first in the order
highHalf, reservedBits, opcode, algField. -/
def decode (v : BitVec 64) : Decoded :=
  if fieldHi v ≠ 0 then .illegal .highHalf
  else if fieldRsv v ≠ 0 then .illegal .reservedBits
  else if fieldOp v = 0x01 then decodeInit (fieldAlg v)
  else match decodePlain (fieldOp v) with
    | none => .illegal .opcode
    | some i => if fieldAlg v ≠ 0 then .illegal .algField else .instr i

/-- The host's table check: the instruction of a table row's word (nbits bits of the row, the rest 0). -/
def decodeTableWord (nbits w : Nat) : Option Instr :=
  match decode (BitVec.ofNat 64 (w % 2 ^ nbits)) with
  | .instr i => some i
  | .illegal _ => none

/-- OP of a command (R102). -/
def Instr.opcode : Instr → BitVec 8
  | .nop => 0x00
  | .initSha256 | .initSha512 | .initSha384 => 0x01
  | .openBuf => 0x02
  | .openStream => 0x03
  | .next => 0x04
  | .compress => 0x05
  | .run => 0x06

/-- ALGF of a command (R100, R103). -/
def Instr.algField : Instr → BitVec 2
  | .initSha512 => 1
  | .initSha384 => 2
  | .nop | .initSha256 | .openBuf | .openStream | .next | .compress | .run => 0

/-- The command word of an instruction: RSV, ALGF, OP from the most significant bit down (R100, R102). -/
def encode (i : Instr) : Word32 :=
  (0 : BitVec 22) ++ i.algField ++ i.opcode

/-- The value of the 64-bit CMD write that issues an instruction: HI is 0 (R100). -/
def cmdWrite (i : Instr) : BitVec 64 :=
  (0 : BitVec 32) ++ encode i

end Sys2Proof
end

