-- ==== Sys2Proof/Config.lean ====
section
/-! DEFINITION. What the implementation or the platform fixes (R7), and the free values the spec leaves open (93_implementation_defined.md). -/

namespace Sys2Proof

/-- The two values of the parameter NONALIGNED_LENGTH_FIELD (R7, R131, D5). -/
inductive LengthFieldMode
  | rounded
  | original
  deriving DecidableEq, Repr

/-- NONALIGNED_LENGTH_FIELD: "this hardware takes ROUNDED" (R7, R131; log entry 9). -/
def Config.nonalignedLengthField : LengthFieldMode := .rounded

/-- CORE_BASE, the platform's address of the register window (R87, I15); no rule depends on its value, so nothing
is said of it (log entry 11). -/
opaque Config.coreBase : BitVec 64

/-- FREE VALUE: the value of the n-th buffer byte that is read after the host stored to it during its source's
lifetime: "a model treats each such byte as any value" (R75, I1; log entry 3). -/
opaque Config.freeByte : Nat → BitVec 8

end Sys2Proof
end

