-- ==== Sys2Proof/Machine/State.lean ====
section
/-! DEFINITION. The state of the CORE (R30, R57) and of the agents outside it (R6), as plain data; the state after reset; the ways a step can stop. -/

namespace Sys2Proof.Machine

/-- STATUS.ALG: the algorithm (R2, R33, R34). The code 3 is never held (R33). -/
inductive Alg
  | sha256
  | sha512
  | sha384
  deriving DecidableEq, Repr

/-- STATUS.SRC: the message source mode (R33, R36). The code 3 is never held (R33). -/
inductive Src
  | none
  | buffer
  | stream
  deriving DecidableEq, Repr

/-- STATUS.PS: the PaddingStatus (R12, R35). The codes 5 to 7 are never held (R33; log entry 10). -/
inductive PaddingStatus
  | unpadded
  | paddedSingleBlock
  | paddedDoubleBlock
  | doubleBlockFirstHalfEmitted
  | allPaddingEmitted
  deriving DecidableEq, Repr

/-- STATUS.ERR: the error codes 0 to 8 of R301. The codes 9 to 15 are reserved and never written. -/
inductive ErrCode
  /-- 0, no error -/
  | none
  /-- 1, E_ILLEGAL -/
  | illegal
  /-- 2, E_SEQ -/
  | seq
  /-- 3, E_OPEN -/
  | openFail
  /-- 4, E_IO -/
  | io
  /-- 5, E_BUS -/
  | bus
  /-- 6, E_LENGTH -/
  | length
  /-- 7, E_INVARIANT -/
  | invariant
  /-- 8, E_RESOURCE: assigned, never raised (R308) -/
  | resource
  deriving DecidableEq, Repr

/-- Host memory (R70, R71): the bytes that answer a MemRead, by address, addresses strictly rising (Memory.wf in
Machine/Ops.lean). An address that is not listed answers buserr (log entry 2). -/
abbrev Memory := List Host.Cell

/-- What the stream provider does with a StreamRead at one step (R77): it does not answer yet, it has bytes, or it
reports an I/O error. -/
inductive ReadAnswer
  | later
  | data (bytes : List Byte)
  | ioerr
  deriving DecidableEq, Repr

/-- The answers of an agent, as plain data: the listed ones in order, and then the same one for ever. -/
structure Answers (α : Type) where
  listed : List α
  rest : α
  deriving DecidableEq, Repr

/-- The stream provider (R6 (c), R76 to R79): its answers to StreamOpen (true is ok, false is fail) and to StreamRead,
and what it has seen: how many StreamOpens it answered ok and how many StreamCloses it received (R78, R81). -/
structure Provider where
  opens : Answers Bool
  reads : Answers ReadAnswer
  opened : Nat
  closed : Nat
  deriving DecidableEq, Repr

/-- One turn of the host, in the order the host makes them (R5, R83, R107). -/
inductive Turn
  /-- the host makes no access in this step -/
  | idle
  /-- a register read of width bits at a byte offset of the window (RD of R107) -/
  | read (width off : Nat)
  /-- a register write; at offset 0 it is a CMD write (WR of R107) -/
  | write (width off : Nat) (v : BitVec 64)
  /-- host memory changes at an address: some b, the host stores the byte b; none, the address stops answering
  and gives buserr from now on (R71, R75, I7) -/
  | memory (a : BitVec 64) (v : Option Byte)
  deriving DecidableEq, Repr

/-- The whole machine: the architectural state of the CORE, exactly that of R30, and after it the agents outside the
CORE, which R30 says are not CORE state (log entries 1 to 7). -/
structure State where
  /-- STATUS.ALG (R34) -/
  alg : Alg
  /-- STATUS.CFG (R34) -/
  cfg : Bool
  /-- STATUS.SRC (R36) -/
  src : Src
  /-- STATUS.PS (R35) -/
  ps : PaddingStatus
  /-- STATUS.EXH (R37) -/
  exh : Bool
  /-- STATUS.BV (R38) -/
  bv : Bool
  /-- STATUS.BUSY (R39) -/
  busy : Bool
  /-- STATUS.SOPEN, the stream handle (R40, R53) -/
  sopen : Bool
  /-- STATUS.ERR (R41) -/
  err : ErrCode
  /-- ERRCMD[31:0] (R43) -/
  errcmd : Word32
  /-- ADDR (R44) -/
  addr : Reg
  /-- NBITS (R45) -/
  nbits : Reg
  /-- LEN (R46) -/
  len : BitVec 128
  /-- BLKCNT (R47) -/
  blkcnt : Reg
  /-- H[0..7] (R48) -/
  h : Vector Reg 8
  /-- M[0..15] (R49) -/
  m : Vector Reg 16
  /-- TAIL[0..255] (R50; R7 counts the same bytes by block of storage: tailStorage, log entry 17) -/
  tail : Vector Byte 256
  /-- BUFPOS (R51) -/
  bufpos : Reg
  /-- FULLREM (R51) -/
  fullrem : Reg
  /-- MODEL's own: host memory (R70 (b); log entry 2) -/
  mem : Memory
  /-- MODEL's own: the addresses of unread buffer bytes the host has stored to since OPEN_BUF (R75; log entry 3) -/
  dirty : List Nat
  /-- MODEL's own: how many bytes have been read through the free value (log entry 3) -/
  draws : Nat
  /-- MODEL's own: the stream provider (R76; log entry 4) -/
  provider : Provider
  /-- MODEL's own: a StreamRead is waiting for the provider's answer (R77, R317, R340; log entry 5) -/
  awaiting : Bool
  /-- MODEL's own: the host's coming turns (log entry 1) -/
  agenda : List Turn
  /-- MODEL's own: the coming samples of the reset input, one a step (R340; log entry 6) -/
  rst : List Bool
  /-- MODEL's own: what the last completed host read returned (R32, R354; log entry 7) -/
  rdata : Reg
  deriving DecidableEq, Repr

/-- "the all-zero sentinel" (R13, R48): H[0..7] all zero. -/
def nullDigest : Vector Reg 8 := Vector.replicate 8 0

/-- The state after reset: every register at the value of R57 (R342). The agents' fields are at values that the log
names (entries 1 to 7): nothing scheduled, nothing answered. -/
def State.reset : State where
  alg := .sha256
  cfg := false
  src := .none
  ps := .unpadded
  exh := false
  bv := false
  busy := false
  sopen := false
  err := .none
  errcmd := 0
  addr := 0
  nbits := 0
  len := 0
  blkcnt := 0
  h := nullDigest
  m := Vector.replicate 16 0
  tail := Vector.replicate 256 0
  bufpos := 0
  fullrem := 0
  mem := []
  dirty := []
  draws := 0
  provider := { opens := ⟨[], false⟩, reads := ⟨[], .later⟩, opened := 0, closed := 0 }
  awaiting := false
  agenda := []
  rst := []
  rdata := 0

/-- The CORE has no fault: "It raises no interrupt and transfers no control" (R300), and every error is recorded in
ERR and the machine goes on (R303, R304). Nobody raises one, so the type is empty, which is safe. -/
inductive Fault : Type
  deriving DecidableEq, Repr

/-- Why a step has no meaning. -/
inductive Refusal
  /-- An instruction without a meaning. Raised by no arm of exec: every command has its meaning. Safe. -/
  | notModelled (mnemonic : String)
  /-- A host register access that is not an aligned 64-bit one: "has no meaning in this spec; a model refuses it"
  (R32 (a), I2). Raised by the host's turn only, never by a command. Safe. -/
  | badAccess (width off : Nat)
  deriving DecidableEq, Repr

/-- The outcome of an instruction or a step. -/
abbrev Result := Host.Outcome State Fault Refusal

end Sys2Proof.Machine
end

