-- ==== Sys2Proof/Machine/Operands.lean ====
section
/-! DEFINITION. The parameters an algorithm selects (R2, R34) and the operand forms: word values of the 64-bit registers (R10, R184), window offsets (R31). -/

namespace Sys2Proof.Machine

/-- BB, the block size in bytes (R2). -/
def Alg.blockBytes : Alg → Nat
  | .sha256 => 64
  | .sha512 | .sha384 => 128

/-- LB, the size of the length field in bytes (R2). -/
def Alg.lenBytes : Alg → Nat
  | .sha256 => 8
  | .sha512 | .sha384 => 16

/-- L, the size of the length field in bits (R2). -/
def Alg.lenBits (a : Alg) : Nat := 8 * a.lenBytes

/-- WB, the word size in bytes (R2). -/
def Alg.wordBytes : Alg → Nat
  | .sha256 => 4
  | .sha512 | .sha384 => 8

/-- R, the number of rounds (R2). -/
def Alg.rounds : Alg → Nat
  | .sha256 => 64
  | .sha512 | .sha384 => 80

/-- DW, the number of words of the public digest (R2, R185). -/
def Alg.digestWords : Alg → Nat
  | .sha256 | .sha512 => 8
  | .sha384 => 6

/-- lo(r) = r[31:0] (R10). -/
def lo (r : Reg) : Word32 := r.truncate 32

/-- zext_64 of a 32-bit word (R8). -/
def zext64 (x : Word32) : Reg := x.zeroExtend 64

/-- wordval(r): the word a register holds for an algorithm, as a 64-bit value (R10, R184). -/
def wordval (a : Alg) (r : Reg) : Reg :=
  match a with
  | .sha256 => zext64 (lo r)
  | .sha512 | .sha384 => r

/-- The platform's address of a register of the window: CORE_BASE and the byte offset (R31, R87). -/
def registerAddress (off : Nat) : Nat := Config.coreBase.toNat + off

/-- Which host accesses have a meaning (R32 (a)). -/
def accessOk (width off : Nat) : Bool := width == 64 && off % 8 == 0

end Sys2Proof.Machine
end

