-- ==== Sys2Proof/Machine/Flags.lean ====
section
/-! DEFINITION. The STATUS register: the codes of its fields (R33, R35, R301) and the packed view the host reads (R33). The CORE has no arithmetic flags (R56). -/

namespace Sys2Proof.Machine

/-- The ALG code (R2, R33). -/
def Alg.code : Alg → BitVec 2
  | .sha256 => 0
  | .sha512 => 1
  | .sha384 => 2

/-- The SRC code (R33). -/
def Src.code : Src → BitVec 2
  | .none => 0
  | .buffer => 1
  | .stream => 2

/-- The PS code (R35). -/
def PaddingStatus.code : PaddingStatus → BitVec 3
  | .unpadded => 0
  | .paddedSingleBlock => 1
  | .paddedDoubleBlock => 2
  | .doubleBlockFirstHalfEmitted => 3
  | .allPaddingEmitted => 4

/-- The ERR code (R301). -/
def ErrCode.code : ErrCode → BitVec 4
  | .none => 0
  | .illegal => 1
  | .seq => 2
  | .openFail => 3
  | .io => 4
  | .bus => 5
  | .length => 6
  | .invariant => 7
  | .resource => 8

/-- STATUS as the host reads it: from the most significant bit down, [63:16] hardwired 0, ERR [15:12], SOPEN [11],
BUSY [10], BV [9], EXH [8], PS [7:5], SRC [4:3], CFG [2], ALG [1:0] (R33). -/
def statusWord (s : State) : Reg :=
  (0 : BitVec 48) ++ s.err.code ++ BitVec.ofBool s.sopen ++ BitVec.ofBool s.busy ++ BitVec.ofBool s.bv
    ++ BitVec.ofBool s.exh ++ s.ps.code ++ s.src.code ++ BitVec.ofBool s.cfg ++ s.alg.code

end Sys2Proof.Machine
end

