-- ==== Sys2Proof/Machine/Ops.lean ====
section
/-! DEFINITION. The named operations over host memory, the register window and the stream provider, and raising and clearing an error (R71 to R78, R31, R32, R303 to R305). -/

namespace Sys2Proof.Machine

/-! ### Host memory -/

/-- The byte at an address, or none where the memory answers buserr (R71). -/
def Memory.read : Memory → Nat → Option Byte
  | [], _ => none
  | (k, b) :: t, a => if k = a then some b else Memory.read t a

/-- The byte b at address a, keeping the addresses rising. -/
def Memory.insert : Memory → Nat → Byte → Memory
  | [], a, b => [(a, b)]
  | (k, c) :: t, a, b =>
    if a < k then (a, b) :: (k, c) :: t
    else if a = k then (a, b) :: t
    else (k, c) :: Memory.insert t a b

/-- The address a answers no more. -/
def Memory.erase : Memory → Nat → Memory
  | [], _ => []
  | (k, c) :: t, a => if k = a then t else (k, c) :: Memory.erase t a

/-- Host memory after it changes at one address: a stored byte, or none for an address that stops answering. -/
def Memory.set (mem : Memory) (a : Nat) : Option Byte → Memory
  | some b => mem.insert a b
  | none => mem.erase a

/-- Every listed address is above n, each above the one before it, and inside the 2^64 bytes of R70. -/
def Memory.risingFrom : Nat → Memory → Bool
  | _, [] => true
  | n, (k, _) :: t => decide (n ≤ k) && decide (k < 2 ^ 64) && Memory.risingFrom (k + 1) t

/-- The canonical form: addresses strictly rising and below 2^64. An unlisted address reads as no byte, so no entry
can equal what an unlisted address reads as. -/
def Memory.wf (mem : Memory) : Bool := Memory.risingFrom 0 mem

/-- What the CORE reads at address a: the memory's byte, or, where the host has stored to a byte of the open
buffer, the k-th free byte (R75, I1). -/
def busByte (mem : Memory) (dirty : List Nat) (k a : Nat) : Option Byte :=
  (mem.read a).map fun b => if a ∈ dirty then Config.freeByte k else b

/-- MemRead(a, n): the n bytes from address a on, or none (buserr) if the memory signals an error for any of them
(R71). k numbers the free bytes. -/
def memRead (mem : Memory) (dirty : List Nat) : Nat → Nat → Nat → Option (List Byte)
  | _, _, 0 => some []
  | k, a, n + 1 =>
    match busByte mem dirty k a, memRead mem dirty (k + 1) (a + 1) n with
    | some b, some bs => some (b :: bs)
    | _, _ => none

/-- Is address a one of the full-block bytes of the open BUFFER source that the CORE has still to read (R72, R75)? -/
def unreadBufferByte (s : State) (a : Nat) : Bool :=
  decide (s.src = .buffer) && decide (s.bufpos.toNat ≤ a)
    && decide (a < s.bufpos.toNat + s.fullrem.toNat * s.alg.blockBytes)

/-- A turn of the host memory: the memory changes, and a store to an unread byte of the open buffer marks it (R75). -/
def hostMemory (a : BitVec 64) (v : Option Byte) (s : State) : State :=
  { s with
    mem := s.mem.set a.toNat v
    dirty := if v.isSome && unreadBufferByte s a.toNat && !(s.dirty.contains a.toNat) then a.toNat :: s.dirty
      else s.dirty }

/-! ### The register window -/

/-- The value a host read of the register at an offset returns (R31, R32). CMD and the reserved offsets read 0. -/
def readReg (s : State) (off : Nat) : Reg :=
  if off = 0x008 then statusWord s
  else if off = 0x010 then zext64 s.errcmd
  else if off = 0x018 then s.addr
  else if off = 0x020 then s.nbits
  else if off = 0x028 then s.len.extractLsb' 0 64
  else if off = 0x030 then s.len.extractLsb' 64 64
  else if off = 0x038 then s.blkcnt
  else if 0x040 ≤ off ∧ off < 0x080 then s.h[(off - 0x040) / 8]?.getD 0
  else if 0x080 ≤ off ∧ off < 0x100 then s.m[(off - 0x080) / 8]?.getD 0
  else 0

/-- A host write to a register other than CMD: ADDR, NBITS, H[i] and M[j] store all 64 bits, a read-only register and
a reserved offset ignore it (R32 (c), (e), (f)). -/
def writeReg (off : Nat) (v : BitVec 64) (s : State) : State :=
  if off = 0x018 then { s with addr := v }
  else if off = 0x020 then { s with nbits := v }
  else if 0x040 ≤ off ∧ off < 0x080 then { s with h := s.h.setIfInBounds ((off - 0x040) / 8) v }
  else if 0x080 ≤ off ∧ off < 0x100 then { s with m := s.m.setIfInBounds ((off - 0x080) / 8) v }
  else s

/-! ### The stream provider -/

/-- The next answer and the answers after it. -/
def Answers.pop {α : Type} (q : Answers α) : α × Answers α :=
  match q.listed with
  | [] => (q.rest, q)
  | x :: t => (x, { q with listed := t })

/-- StreamOpen (R76, R78): the provider's answer, true for ok, and the provider after it. -/
def Provider.streamOpen (p : Provider) : Bool × Provider :=
  let (ok, opens) := p.opens.pop
  (ok, { p with opens := opens, opened := if ok then p.opened + 1 else p.opened })

/-- StreamRead(n) (R77, R79): the next bytes of the stream, at most n of them, or ioerr, or no answer yet; and the
provider after it. Bytes of an answer beyond n stay in the stream. -/
def Provider.streamRead (n : Nat) (p : Provider) : ReadAnswer × Provider :=
  match p.reads.listed with
  | [] =>
    match p.reads.rest with
    | .data bs => (.data (bs.take n), p)
    | .later => (.later, p)
    | .ioerr => (.ioerr, p)
  | .data bs :: t =>
    (.data (bs.take n), { p with reads.listed := if bs.length ≤ n then t else .data (bs.drop n) :: t })
  | .later :: t => (.later, { p with reads.listed := t })
  | .ioerr :: t => (.ioerr, { p with reads.listed := t })

/-- StreamClose (R78): "releases the handle and cannot fail". -/
def Provider.streamClose (p : Provider) : Provider := { p with closed := p.closed + 1 }

/-- The answer of the StreamRead in progress, which a reset discards (R340): what the provider gives after it. -/
def discardAnswer : List ReadAnswer → List ReadAnswer
  | [] => []
  | .later :: t => discardAnswer t
  | .data _ :: t => t
  | .ioerr :: t => t

/-- Release the stream handle, if the CORE holds one (R53, R78). -/
def closeStream (s : State) : State :=
  if s.sopen then { s with sopen := false, provider := s.provider.streamClose } else s

/-! ### Errors -/

/-- The source is given up: the part INIT (R272) and a source error (R304) have in common. The marks of R75 end with
the source. -/
def dropSource (s : State) : State :=
  { s with
    src := .none
    ps := .unpadded
    exh := false
    bv := false
    bufpos := 0
    fullrem := 0
    dirty := [] }

/-- The effect of a command error, raised by a command word (R303). -/
def commandError (code : ErrCode) (word : Word32) (s : State) : State :=
  { s with err := code, errcmd := word }

/-- The effect of a source error, raised by a command word: the stream is closed, the digest becomes the null digest
and the source is dropped (R304). -/
def sourceError (code : ErrCode) (word : Word32) (s : State) : State :=
  { dropSource (closeStream s) with h := nullDigest, busy := false, err := code, errcmd := word }

/-- raise Error(code): the one place an error is taken. E_ILLEGAL and E_SEQ are command errors, the others source
errors (R11, R301, R302). -/
def raiseError (code : ErrCode) (word : Word32) (s : State) : State :=
  match code with
  | .illegal | .seq => commandError code word s
  | .none | .openFail | .io | .bus | .length | .invariant | .resource => sourceError code word s

/-- The way out of an error: INIT "clears ERR and starts a new computation" (R305, R311). -/
def clearError (s : State) : State := { s with err := .none, errcmd := 0 }

/-- The check every command but NOP and INIT makes first: "Once ERR != 0, every later command except NOP and INIT has
no effect at all" (R270, R305). -/
def unlessError (s s' : State) : State := if s.err = .none then s' else s

end Sys2Proof.Machine
end

