-- ==== Sys2Proof/Machine/Normalizer.lean ====
section
/-! DEFINITION. The big-endian word normalizer (R180 to R187). -/

namespace Sys2Proof.Machine

/-- The bytes of a word, the first the most significant, as a 64-bit value (R181). -/
def beWord (bytes : List Byte) : Reg :=
  bytes.foldl (fun acc b => (acc <<< 8) ||| b.zeroExtend 64) 0

/-- Normalize: word j is bytes WB·j to WB·j + WB - 1 of the block (R181). -/
def normalize (a : Alg) (block : List Byte) : Vector Reg 16 :=
  Vector.ofFn fun j => beWord ((block.drop (a.wordBytes * j)).take a.wordBytes)

/-- BE_n(v): byte i is v[8(n-1-i)+7 : 8(n-1-i)] (R182). -/
def beBytes : Nat → Nat → List Byte
  | 0, _ => []
  | n + 1, v => BitVec.ofNat 8 (v >>> (8 * n)) :: beBytes n v

/-- The digest words: wordval(H[0]) to wordval(H[DW-1]) (R185). -/
def digestWords (a : Alg) (h : Vector Reg 8) : List Reg :=
  (h.toList.map (wordval a)).take a.digestWords

/-- The digest as a byte string (R185). -/
def digestBytes (a : Alg) (h : Vector Reg 8) : List Byte :=
  (digestWords a h).flatMap fun r => beBytes a.wordBytes r.toNat

end Sys2Proof.Machine
end

