-- ==== Sys2Proof/Machine/Padding.lean ====
section
/-! DEFINITION. The padding rule as pure functions of the message (R130 to R134, R137): byte counts, the length field, the tail, the padded message and its blocks. -/

namespace Sys2Proof.Machine

/-- A string of n zero bytes (R8). -/
def zeros (n : Nat) : List Byte := List.replicate n 0

/-- nbytes = ceil(NBITS / 8) (R131). -/
def messageBytes (nbits : Nat) : Nat := (nbits + 7) / 8

/-- Lfield of a BUFFER source: 8·nbytes under ROUNDED, NBITS under ORIGINAL (R131). -/
def lengthField (mode : LengthFieldMode) (nbits : Nat) : Nat :=
  match mode with
  | .rounded => 8 * messageBytes nbits
  | .original => nbits

/-- Do the 0x80 byte and the length field fit in the block that holds the last rem bytes? (R133) -/
def fitsOneBlock (a : Alg) (rem : Nat) : Bool :=
  decide (rem ≤ a.blockBytes - a.lenBytes - 1)

/-- T of R137: the last rem bytes, 0x80, zeros, and the length field, one block or two. -/
def tailBlocks (a : Alg) (t : List Byte) (lfield : Nat) : List Byte :=
  let n := if fitsOneBlock a t.length then a.blockBytes else 2 * a.blockBytes
  t ++ [0x80] ++ zeros (n - t.length - 1 - a.lenBytes) ++ beBytes a.lenBytes lfield

/-- TailBytes: T filled up with zeros to the 256 bytes of TAIL (R137). -/
def tailBytes (a : Alg) (t : List Byte) (lfield : Nat) : Vector Byte 256 :=
  Vector.ofFn fun i => (tailBlocks a t lfield).getD i 0

/-- The bytes of tail block q: TAIL[BB·q .. BB·q + BB - 1] (R50, R140), the numbering that R137 and V26 use too. -/
def tailBlock (a : Alg) (tail : Vector Byte 256) (q : Nat) : List Byte :=
  (tail.toList.drop (a.blockBytes * q)).take a.blockBytes

/-- Block q of the tail storage as R7 counts it: 128 bytes, of which SHA-256 uses the first 64. The same bytes as tailBlock,
seen by block of storage and not by the index in TAIL; the bytes not used are 0 here. That R7 speaks of storage and R50 of
the index is DEDUCED (log entry 17). -/
def tailStorage (a : Alg) (tail : Vector Byte 256) (q : Nat) : List Byte :=
  tailBlock a tail q ++ zeros (128 - a.blockBytes)

/-- The final block of a stream that ends after the bytes t of a short read: 0x80 and zeros, and the length field
if it fits (R141). -/
def streamFinalBlock (a : Alg) (t : List Byte) (len : Nat) : List Byte :=
  let blk := t ++ [0x80] ++ zeros (a.blockBytes - t.length - 1)
  if fitsOneBlock a t.length then blk.take (a.blockBytes - a.lenBytes) ++ beBytes a.lenBytes len else blk

/-- The length-only block of a stream (R142). -/
def streamLengthBlock (a : Alg) (len : Nat) : List Byte :=
  zeros (a.blockBytes - a.lenBytes) ++ beBytes a.lenBytes len

/-- The number of zero bytes of PadBytes: the least z with (nbytes + 1 + z + LB) mod BB = 0 (R132). -/
def padZeros (a : Alg) (nbytes : Nat) : Nat :=
  (a.blockBytes - (nbytes + 1 + a.lenBytes) % a.blockBytes) % a.blockBytes

/-- PadBytes: the padded message (R132). -/
def padBytes (a : Alg) (msg : List Byte) (lfield : Nat) : List Byte :=
  msg ++ [0x80] ++ zeros (padZeros a msg.length) ++ beBytes a.lenBytes lfield

/-- A byte string cut into blocks of BB bytes, block 0 first (R132). -/
def blocksOf (a : Alg) (bytes : List Byte) : List (List Byte) :=
  (List.range (bytes.length / a.blockBytes)).map fun q => (bytes.drop (a.blockBytes * q)).take a.blockBytes

/-- N, the number of blocks of a message of nbytes bytes (R134). -/
def blockCount (a : Alg) (nbytes : Nat) : Nat :=
  (nbytes + a.lenBytes) / a.blockBytes + 1

end Sys2Proof.Machine
end

