-- ==== Sys2Proof/Machine/Padder.lean ====
section
/-! DEFINITION. The padder's commands: OPEN_BUF (R136), OPEN_STREAM (R138) and NEXT (R139 to R146), with the PaddingStatus machine (R135). -/

namespace Sys2Proof.Machine

/-! ### OPEN_BUF -/

/-- The state of an opened BUFFER source: t is the partial last block, lfield the length field's value and full the
number of full blocks (R136). -/
def openedBuffer (t : List Byte) (lfield full : Nat) (s : State) : State :=
  { s with
    tail := tailBytes s.alg t lfield
    ps := if fitsOneBlock s.alg t.length then .paddedSingleBlock else .paddedDoubleBlock
    src := .buffer
    bufpos := s.addr
    fullrem := BitVec.ofNat 64 full
    len := BitVec.ofNat 128 lfield
    blkcnt := 0
    exh := false
    bv := false
    dirty := [] }

/-- OPEN_BUF after the common checks, for either value of NONALIGNED_LENGTH_FIELD (R136); word is the command word. -/
def openBuf (mode : LengthFieldMode) (word : Word32) (s : State) : State :=
  if s.cfg = false ∨ s.src ≠ .none then raiseError .seq word s
  else
    let nbytes := messageBytes s.nbits.toNat
    let lfield := lengthField mode s.nbits.toNat
    if 2 ^ s.alg.lenBits ≤ lfield then raiseError .length word s
    else if 2 ^ 64 < s.addr.toNat + nbytes then raiseError .bus word s
    else
      let full := nbytes / s.alg.blockBytes
      match memRead s.mem [] 0 (s.addr.toNat + full * s.alg.blockBytes) (nbytes % s.alg.blockBytes) with
      | none => raiseError .bus word s
      | some t => openedBuffer t lfield full s

/-- OPEN_BUF (R136). -/
def execOpenBuf (s : State) : Result :=
  .next (unlessError s (openBuf Config.nonalignedLengthField (encode .openBuf) s))

/-! ### OPEN_STREAM -/

/-- OPEN_STREAM after the common checks (R138). -/
def openStream (word : Word32) (s : State) : State :=
  if s.cfg = false ∨ s.src ≠ .none then raiseError .seq word s
  else
    let (ok, provider) := s.provider.streamOpen
    let s := { s with provider := provider }
    if ok then
      { s with src := .stream, sopen := true, ps := .unpadded, len := 0, blkcnt := 0, exh := false, bv := false }
    else raiseError .openFail word s

/-- OPEN_STREAM (R138). -/
def execOpenStream (s : State) : Result :=
  .next (unlessError s (openStream (encode .openStream) s))

/-! ### NEXT -/

/-- How NEXT's pseudocode ends. -/
inductive NextEnd
  /-- it delivered a block or signalled exhaustion -/
  | done (s : State)
  /-- it raised an error -/
  | failed (s : State)
  /-- its StreamRead has no answer yet: nothing but the provider has changed (R77) -/
  | waiting (s : State)
  deriving DecidableEq, Repr

/-- The state at that end. -/
def NextEnd.state : NextEnd → State
  | .done s => s
  | .failed s => s
  | .waiting s => { s with awaiting := true }

/-- InvariantBroken() (R144). SRC = 3 and PS = 5 to 7 are excluded by the types (log entry 10). -/
def invariantBroken (s : State) : Bool :=
  match s.src with
  | .none => false
  | .buffer =>
    decide (s.ps = .unpadded)
      || (decide (s.fullrem ≠ 0)
        && (decide (s.ps = .doubleBlockFirstHalfEmitted) || decide (s.ps = .allPaddingEmitted)))
  | .stream =>
    decide (s.ps = .paddedSingleBlock) || decide (s.ps = .paddedDoubleBlock)
      || (s.sopen && decide (s.ps ≠ .unpadded)) || (!s.sopen && decide (s.ps = .unpadded))

/-- A block goes through Normalize into M and is counted (R140 to R142, R181, R47). -/
def deliver (block : List Byte) (s : State) : State :=
  { s with m := normalize s.alg block, blkcnt := s.blkcnt + 1, bv := true }

/-- Exhausted() (R143). -/
def exhausted (s : State) : State := { s with exh := true, bv := false }

/-- NextBuffer() (R140). -/
def nextBuffer (word : Word32) (s : State) : NextEnd :=
  if s.fullrem ≠ 0 then
    match memRead s.mem s.dirty s.draws s.bufpos.toNat s.alg.blockBytes with
    | none => .failed (raiseError .bus word s)
    | some block =>
      .done (deliver block
        { s with
          bufpos := s.bufpos + BitVec.ofNat 64 s.alg.blockBytes
          fullrem := s.fullrem - 1
          draws := s.draws + s.alg.blockBytes })
  else
    match s.ps with
    | .paddedSingleBlock => .done (deliver (tailBlock s.alg s.tail 0) { s with ps := .allPaddingEmitted })
    | .paddedDoubleBlock => .done (deliver (tailBlock s.alg s.tail 0) { s with ps := .doubleBlockFirstHalfEmitted })
    | .unpadded | .doubleBlockFirstHalfEmitted | .allPaddingEmitted =>
      .done (deliver (tailBlock s.alg s.tail 1) { s with ps := .allPaddingEmitted })

/-- What NEXT does with the bytes of a StreamRead (R141, R145, R146). -/
def streamBytes (word : Word32) (bytes : List Byte) (s : State) : NextEnd :=
  if 2 ^ s.alg.lenBits ≤ s.len.toNat + 8 * bytes.length then .failed (raiseError .length word s)
  else
    let s := { s with len := s.len + BitVec.ofNat 128 (8 * bytes.length) }
    if bytes.length = s.alg.blockBytes then .done (deliver bytes s)
    else
      let s := closeStream s
      .done (deliver (streamFinalBlock s.alg bytes s.len.toNat)
        { s with
          ps := if fitsOneBlock s.alg bytes.length then .allPaddingEmitted else .doubleBlockFirstHalfEmitted })

/-- NextStream() (R141, R142). -/
def nextStream (word : Word32) (s : State) : NextEnd :=
  if s.ps = .unpadded then
    let (answer, provider) := s.provider.streamRead s.alg.blockBytes
    let s := { s with provider := provider }
    match answer with
    | .later => .waiting s
    | .ioerr => .failed (raiseError .io word s)
    | .data bytes => streamBytes word bytes s
  else
    .done (deliver (streamLengthBlock s.alg s.len.toNat) { s with ps := .allPaddingEmitted })

/-- NEXT's pseudocode after its E_SEQ check (R139), which RunStep performs too (R276); word is the command word that
an error records. -/
def nextBlock (word : Word32) (s : State) : NextEnd :=
  if invariantBroken s then .failed (raiseError .invariant word s)
  else if s.ps = .allPaddingEmitted then .done (exhausted s)
  else if s.src = .buffer then nextBuffer word s
  else nextStream word s

/-- NEXT (R139). -/
def execNext (s : State) : Result :=
  .next (unlessError s
    (if s.cfg = false ∨ s.src = .none then raiseError .seq (encode .next) s
     else (nextBlock (encode .next) s).state))

end Sys2Proof.Machine
end

