-- ==== Sys2Proof/Machine/Rounds.lean ====
section
/-! DEFINITION. What the two compression engines share (R9, R200, R205 to R208, R240, R246 to R249): word functions, the message schedule, the round and the whole compression, for words of w bits. -/

namespace Sys2Proof.Machine

/-- ROTR_n (R9). -/
def rotr {w : Nat} (n : Nat) (x : BitVec w) : BitVec w := (x >>> n) ||| (x <<< (w - n))

/-- SHR_n (R9). -/
def shr {w : Nat} (n : Nat) (x : BitVec w) : BitVec w := x >>> n

/-- Ch (R200, R240). -/
def ch {w : Nat} (x y z : BitVec w) : BitVec w := (x &&& y) ^^^ (~~~x &&& z)

/-- Maj (R200, R240). -/
def maj {w : Nat} (x y z : BitVec w) : BitVec w := (x &&& y) ^^^ (x &&& z) ^^^ (y &&& z)

/-- The n words of one printed row of a constant table, leftmost word first; the row stands as one numeral (R203, R243). -/
def rowWords (w n row : Nat) : List (BitVec w) :=
  (List.range n).map fun i => BitVec.ofNat w (row >>> (w * (n - 1 - i)))

/-- What tells the two engines apart: the four sigma functions and the round constants. -/
structure Engine (w : Nat) where
  /-- Σ0 -/
  bigSigma0 : BitVec w → BitVec w
  /-- Σ1 -/
  bigSigma1 : BitVec w → BitVec w
  /-- σ0 -/
  smallSigma0 : BitVec w → BitVec w
  /-- σ1 -/
  smallSigma1 : BitVec w → BitVec w
  /-- K[0..R-1] -/
  k : List (BitVec w)

/-- The working variables a to h, which exist only inside one compression (R52). -/
structure Working (w : Nat) where
  a : BitVec w
  b : BitVec w
  c : BitVec w
  d : BitVec w
  e : BitVec w
  f : BitVec w
  g : BitVec w
  h : BitVec w
  deriving DecidableEq, Repr

/-- One new schedule word, σ1(W[t-2]) + W[t-7] + σ0(W[t-15]) + W[t-16], from the words before it, newest first
(R205, R246). -/
def Engine.nextWord {w : Nat} (E : Engine w) (older : List (BitVec w)) : BitVec w :=
  E.smallSigma1 (older.getD 1 0) + older.getD 6 0 + E.smallSigma0 (older.getD 14 0) + older.getD 15 0

/-- n more schedule words, newest first. -/
def Engine.extend {w : Nat} (E : Engine w) : Nat → List (BitVec w) → List (BitVec w)
  | 0, older => older
  | n + 1, older => Engine.extend E n (E.nextWord older :: older)

/-- The message schedule W[0..R-1] of a block (R205, R246). -/
def Engine.schedule {w : Nat} (E : Engine w) (block : Vector (BitVec w) 16) : List (BitVec w) :=
  (E.extend (E.k.length - 16) block.toList.reverse).reverse

/-- One round with the constant k and the schedule word x; every right side reads the values from before the round
(R206, R247). -/
def Engine.round {w : Nat} (E : Engine w) (v : Working w) (k x : BitVec w) : Working w :=
  let t1 := v.h + E.bigSigma1 v.e + ch v.e v.f v.g + k + x
  let t2 := E.bigSigma0 v.a + maj v.a v.b v.c
  { a := t1 + t2, b := v.a, c := v.b, d := v.c, e := v.d + t1, f := v.e, g := v.f, h := v.g }

/-- The rounds, one for each constant and schedule word (R208, R249). -/
def Engine.runRounds {w : Nat} (E : Engine w) (v : Working w) (ws : List (BitVec w)) : Working w :=
  (E.k.zip ws).foldl (fun v kx => E.round v kx.1 kx.2) v

/-- The compression function: schedule, rounds, and the addition of the final working variables (R208, R249). -/
def Engine.compress {w : Nat} (E : Engine w) (hin : Vector (BitVec w) 8) (block : Vector (BitVec w) 16) :
    Vector (BitVec w) 8 :=
  let v := E.runRounds
    { a := hin[0], b := hin[1], c := hin[2], d := hin[3], e := hin[4], f := hin[5], g := hin[6], h := hin[7] }
    (E.schedule block)
  #v[hin[0] + v.a, hin[1] + v.b, hin[2] + v.c, hin[3] + v.d, hin[4] + v.e, hin[5] + v.f, hin[6] + v.g, hin[7] + v.h]

end Sys2Proof.Machine
end

