-- ==== Sys2Proof/Machine/Sha256.lean ====
section
/-! DEFINITION. The SHA-256 compression engine (R200 to R210): sigma functions, constants, initialization vector, Compress256. -/

namespace Sys2Proof.Machine

/-- Σ0 of SHA-256 (R201). -/
def Sha256.bigSigma0 (x : Word32) : Word32 := rotr 2 x ^^^ rotr 13 x ^^^ rotr 22 x

/-- Σ1 of SHA-256 (R201). -/
def Sha256.bigSigma1 (x : Word32) : Word32 := rotr 6 x ^^^ rotr 11 x ^^^ rotr 25 x

/-- σ0 of SHA-256 (R202). -/
def Sha256.smallSigma0 (x : Word32) : Word32 := rotr 7 x ^^^ rotr 18 x ^^^ shr 3 x

/-- σ1 of SHA-256 (R202). -/
def Sha256.smallSigma1 (x : Word32) : Word32 := rotr 17 x ^^^ rotr 19 x ^^^ shr 10 x

/-- The printed rows of K256[0..63], 8 words a row (R203). -/
def k256Rows : List Nat := [
  0x428a2f98_71374491_b5c0fbcf_e9b5dba5_3956c25b_59f111f1_923f82a4_ab1c5ed5,
  0xd807aa98_12835b01_243185be_550c7dc3_72be5d74_80deb1fe_9bdc06a7_c19bf174,
  0xe49b69c1_efbe4786_0fc19dc6_240ca1cc_2de92c6f_4a7484aa_5cb0a9dc_76f988da,
  0x983e5152_a831c66d_b00327c8_bf597fc7_c6e00bf3_d5a79147_06ca6351_14292967,
  0x27b70a85_2e1b2138_4d2c6dfc_53380d13_650a7354_766a0abb_81c2c92e_92722c85,
  0xa2bfe8a1_a81a664b_c24b8b70_c76c51a3_d192e819_d6990624_f40e3585_106aa070,
  0x19a4c116_1e376c08_2748774c_34b0bcb5_391c0cb3_4ed8aa4a_5b9cca4f_682e6ff3,
  0x748f82ee_78a5636f_84c87814_8cc70208_90befffa_a4506ceb_bef9a3f7_c67178f2]

/-- The round constants K256[0..63] (R203). -/
def k256 : List Word32 := k256Rows.flatMap (rowWords 32 8)

/-- The initialization vector IV256 (R204). -/
def iv256 : Vector Word32 8 := #v[
  0x6a09e667, 0xbb67ae85, 0x3c6ef372, 0xa54ff53a,
  0x510e527f, 0x9b05688c, 0x1f83d9ab, 0x5be0cd19]

/-- The SHA-256 engine. -/
def sha256Engine : Engine 32 where
  bigSigma0 := Sha256.bigSigma0
  bigSigma1 := Sha256.bigSigma1
  smallSigma0 := Sha256.smallSigma0
  smallSigma1 := Sha256.smallSigma1
  k := k256

/-- Compress256 (R208). -/
def compress256 (hin : Vector Word32 8) (block : Vector Word32 16) : Vector Word32 8 :=
  sha256Engine.compress hin block

end Sys2Proof.Machine
end

