-- ==== Sys2Proof/Machine/Sha512.lean ====
section
/-! DEFINITION. The SHA-512/384 compression engine (R240 to R251): sigma functions, constants, initialization vectors, Compress512. -/

namespace Sys2Proof.Machine

/-- Σ0 of SHA-512/384 (R241). -/
def Sha512.bigSigma0 (x : Reg) : Reg := rotr 28 x ^^^ rotr 34 x ^^^ rotr 39 x

/-- Σ1 of SHA-512/384 (R241). -/
def Sha512.bigSigma1 (x : Reg) : Reg := rotr 14 x ^^^ rotr 18 x ^^^ rotr 41 x

/-- σ0 of SHA-512/384 (R242). -/
def Sha512.smallSigma0 (x : Reg) : Reg := rotr 1 x ^^^ rotr 8 x ^^^ shr 7 x

/-- σ1 of SHA-512/384 (R242). -/
def Sha512.smallSigma1 (x : Reg) : Reg := rotr 19 x ^^^ rotr 61 x ^^^ shr 6 x

/-- The printed rows of K512[0..79], 4 words a row (R243). -/
def k512Rows : List Nat := [
  0x428a2f98d728ae22_7137449123ef65cd_b5c0fbcfec4d3b2f_e9b5dba58189dbbc,
  0x3956c25bf348b538_59f111f1b605d019_923f82a4af194f9b_ab1c5ed5da6d8118,
  0xd807aa98a3030242_12835b0145706fbe_243185be4ee4b28c_550c7dc3d5ffb4e2,
  0x72be5d74f27b896f_80deb1fe3b1696b1_9bdc06a725c71235_c19bf174cf692694,
  0xe49b69c19ef14ad2_efbe4786384f25e3_0fc19dc68b8cd5b5_240ca1cc77ac9c65,
  0x2de92c6f592b0275_4a7484aa6ea6e483_5cb0a9dcbd41fbd4_76f988da831153b5,
  0x983e5152ee66dfab_a831c66d2db43210_b00327c898fb213f_bf597fc7beef0ee4,
  0xc6e00bf33da88fc2_d5a79147930aa725_06ca6351e003826f_142929670a0e6e70,
  0x27b70a8546d22ffc_2e1b21385c26c926_4d2c6dfc5ac42aed_53380d139d95b3df,
  0x650a73548baf63de_766a0abb3c77b2a8_81c2c92e47edaee6_92722c851482353b,
  0xa2bfe8a14cf10364_a81a664bbc423001_c24b8b70d0f89791_c76c51a30654be30,
  0xd192e819d6ef5218_d69906245565a910_f40e35855771202a_106aa07032bbd1b8,
  0x19a4c116b8d2d0c8_1e376c085141ab53_2748774cdf8eeb99_34b0bcb5e19b48a8,
  0x391c0cb3c5c95a63_4ed8aa4ae3418acb_5b9cca4f7763e373_682e6ff3d6b2b8a3,
  0x748f82ee5defb2fc_78a5636f43172f60_84c87814a1f0ab72_8cc702081a6439ec,
  0x90befffa23631e28_a4506cebde82bde9_bef9a3f7b2c67915_c67178f2e372532b,
  0xca273eceea26619c_d186b8c721c0c207_eada7dd6cde0eb1e_f57d4f7fee6ed178,
  0x06f067aa72176fba_0a637dc5a2c898a6_113f9804bef90dae_1b710b35131c471b,
  0x28db77f523047d84_32caab7b40c72493_3c9ebe0a15c9bebc_431d67c49c100d4c,
  0x4cc5d4becb3e42b6_597f299cfc657e2a_5fcb6fab3ad6faec_6c44198c4a475817]

/-- The round constants K512[0..79] (R243). -/
def k512 : List Reg := k512Rows.flatMap (rowWords 64 4)

/-- The SHA-512 initialization vector IV512 (R244). -/
def iv512 : Vector Reg 8 := #v[
  0x6a09e667f3bcc908, 0xbb67ae8584caa73b, 0x3c6ef372fe94f82b, 0xa54ff53a5f1d36f1,
  0x510e527fade682d1, 0x9b05688c2b3e6c1f, 0x1f83d9abfb41bd6b, 0x5be0cd19137e2179]

/-- The SHA-384 initialization vector IV384 (R245). -/
def iv384 : Vector Reg 8 := #v[
  0xcbbb9d5dc1059ed8, 0x629a292a367cd507, 0x9159015a3070dd17, 0x152fecd8f70e5939,
  0x67332667ffc00b31, 0x8eb44a8768581511, 0xdb0c2e0d64f98fa7, 0x47b5481dbefa4fa4]

/-- The SHA-512/384 engine. -/
def sha512Engine : Engine 64 where
  bigSigma0 := Sha512.bigSigma0
  bigSigma1 := Sha512.bigSigma1
  smallSigma0 := Sha512.smallSigma0
  smallSigma1 := Sha512.smallSigma1
  k := k512

/-- Compress512, which serves SHA-512 and SHA-384 (R249). -/
def compress512 (hin : Vector Reg 8) (block : Vector Reg 16) : Vector Reg 8 :=
  sha512Engine.compress hin block

end Sys2Proof.Machine
end

