-- ==== Sys2Proof/Machine/Control.lean ====
section
/-! DEFINITION. The control commands NOP, INIT, COMPRESS and RUN (R271 to R274), and the engine's RunStep (R276, R277). -/

namespace Sys2Proof.Machine

/-! ### NOP -/

/-- NOP "does nothing" and "is accepted even when ERR != 0" (R271). -/
def execNop (s : State) : Result := .next s

/-! ### INIT -/

/-- The initialization vector of an algorithm in the H registers (R204, R244, R245, R272). -/
def initVector : Alg → Vector Reg 8
  | .sha256 => Vector.ofFn fun i => zext64 iv256[i]
  | .sha512 => iv512
  | .sha384 => iv384

/-- INIT (R272): close an open stream, drop the source, select the algorithm, load its IV and clear the error. -/
def initialise (a : Alg) (s : State) : State :=
  clearError
    { dropSource (closeStream s) with
      alg := a
      cfg := true
      h := initVector a
      len := 0
      blkcnt := 0
      tail := Vector.replicate 256 0 }

/-- INIT sha256 (R272). -/
def execInitSha256 (s : State) : Result := .next (initialise .sha256 s)

/-- INIT sha512 (R272). -/
def execInitSha512 (s : State) : Result := .next (initialise .sha512 s)

/-- INIT sha384 (R272). -/
def execInitSha384 (s : State) : Result := .next (initialise .sha384 s)

/-! ### COMPRESS -/

/-- The new H of a compression: the SHA-256 arm on the low halves (R209) or the SHA-512/384 arm (R250). -/
def foldBlock (a : Alg) (h : Vector Reg 8) (m : Vector Reg 16) : Vector Reg 8 :=
  match a with
  | .sha256 =>
    let out := compress256 (Vector.ofFn fun i => lo h[i]) (Vector.ofFn fun j => lo m[j])
    Vector.ofFn fun i => zext64 out[i]
  | .sha512 => compress512 h m
  | .sha384 => compress512 h m

/-- COMPRESS's arm for ALG (R209, R250), which RunStep performs too (R276). -/
def compressBlock (s : State) : State := { s with h := foldBlock s.alg s.h s.m, bv := false }

/-- COMPRESS (R273). -/
def execCompress (s : State) : Result :=
  .next (unlessError s
    (if s.cfg = false then raiseError .seq (encode .compress) s else compressBlock s))

/-! ### RUN -/

/-- RUN's issue step (R274). -/
def execRun (s : State) : Result :=
  .next (unlessError s
    (if s.cfg = false ∨ s.src = .none then raiseError .seq (encode .run) s else { s with busy := true }))

/-- RunStep (R276, R277), which the engine repeats while BUSY = 1. A NEXT whose StreamRead has no answer yet leaves the
RUN waiting (R317, R351). -/
def runStep (s : State) : State :=
  match nextBlock (encode .run) { s with awaiting := false } with
  | .waiting t => { t with awaiting := true }
  | .failed t => { t with busy := false }
  | .done t => if t.exh then { t with busy := false } else compressBlock t

end Sys2Proof.Machine
end

