-- ==== Sys2Proof/Machine/Dispatch.lean ====
section
/-! DEFINITION. The meaning of each command (R270): one arm per constructor of Instr. -/

namespace Sys2Proof.Machine

def exec (i : Instr) (s : State) : Host.Outcome State Fault Refusal :=
  match i with
  | .nop => Sys2Proof.Machine.execNop s
  | .initSha256 => Sys2Proof.Machine.execInitSha256 s
  | .initSha512 => Sys2Proof.Machine.execInitSha512 s
  | .initSha384 => Sys2Proof.Machine.execInitSha384 s
  | .openBuf => Sys2Proof.Machine.execOpenBuf s
  | .openStream => Sys2Proof.Machine.execOpenStream s
  | .next => Sys2Proof.Machine.execNext s
  | .compress => Sys2Proof.Machine.execCompress s
  | .run => Sys2Proof.Machine.execRun s

end Sys2Proof.Machine
end

