-- ==== Sys2Proof/Machine/Turns.lean ====
section
/-! DEFINITION. The moves a step is made of: issuing a command (R270), a host turn (R32), the engine's turn in a RUN (R276, R348), a waiting NEXT going on (R77), reset (R340, R341). -/

namespace Sys2Proof.Machine

/-- Command issue: a CMD write of value v while BUSY = 0 (R270). An illegal word raises E_ILLEGAL with v[31:0] as the
command word, unless an error is already recorded (R305, R306). -/
def issue (v : BitVec 64) (s : State) : Result :=
  match decode v with
  | .instr i => exec i s
  | .illegal _ => .next (unlessError s (raiseError .illegal (v.truncate 32) s))

/-- A host register read: no side effect, the value goes to the host (R32 (b)). -/
def hostRead (width off : Nat) (s : State) : Result :=
  if accessOk width off then .next { s with rdata := readReg s off } else .refused (.badAccess width off)

/-- A host register write while BUSY = 0: at offset 0 a command issue, else the register stores it (R32). -/
def hostWrite (width off : Nat) (v : BitVec 64) (s : State) : Result :=
  if accessOk width off then
    if off = 0x000 then issue v s else .next (writeReg off v s)
  else .refused (.badAccess width off)

/-- The host's next turn while BUSY = 0. Where the host has none, the CORE does nothing (R317). -/
def hostTurn (s : State) : Result :=
  match s.agenda with
  | [] => .next s
  | .idle :: rest => .next { s with agenda := rest }
  | .read width off :: rest => hostRead width off { s with agenda := rest }
  | .write width off v :: rest => hostWrite width off v { s with agenda := rest }
  | .memory a v :: rest => .next (hostMemory a v { s with agenda := rest })

/-- A step while BUSY = 1: a host read is not held and sees the state between two RunSteps, host memory is not the
CORE's to hold, a host write (to any offset) is held, and otherwise the engine takes a RunStep (R32 (g), R276, R348). -/
def busyTurn (s : State) : Result :=
  match s.agenda with
  | .read width off :: rest => hostRead width off { s with agenda := rest }
  | .memory a v :: rest => .next (hostMemory a v { s with agenda := rest })
  | .idle :: rest => .next (runStep { s with agenda := rest })
  | .write _ _ _ :: _ => .next (runStep s)
  | [] => .next (runStep s)

/-- A NEXT whose StreamRead waits goes on; its CMD write completes with it, and the host's later turns come after it
(R77, R83; log entry 5). -/
def resumeNext (s : State) : Result := execNext { s with awaiting := false }

/-- A step without reset. -/
def advance (s : State) : Result :=
  if s.busy then busyTurn s
  else if s.awaiting then resumeNext s
  else hostTurn s

/-- The reset step (R340, R341): every register at its reset value, an open stream closed, the answer of a StreamRead
in progress discarded. The agents outside the CORE keep what they have. -/
def resetStep (s : State) : State :=
  { State.reset with
    mem := s.mem
    draws := s.draws
    provider := { (closeStream s).provider with
      reads.listed := if s.awaiting then discardAnswer s.provider.reads.listed else s.provider.reads.listed }
    agenda := s.agenda
    rst := s.rst
    rdata := s.rdata }

end Sys2Proof.Machine
end

