-- ==== Sys2Proof/Machine/Step.lean ====
section
/-! DEFINITION. One step of the machine, and where a command comes from (R5, R55, R340). -/

namespace Sys2Proof.Machine

/-- One step: reset if the platform asserts it at this step (R340), else one move of the engine or of the host. -/
def step (s : State) : Host.Outcome State Fault Refusal :=
  match s.rst with
  | true :: rest => .next (resetStep { s with rst := rest })
  | false :: rest => advance { s with rst := rest }
  | [] => advance s

/-- The state in which the very next step runs the command of a table row: the CORE fetches nothing (R55), so the
command is the host's next CMD write, with no reset at that step, and with no RUN and no waiting NEXT that would hold
it (log entry 12). -/
def State.withFetchWord (s : State) (nbits w : Nat) : State :=
  { s with
    busy := false
    awaiting := false
    rst := false :: s.rst
    agenda := .write 64 0x000 (BitVec.ofNat 64 (w % 2 ^ nbits)) :: s.agenda }

end Sys2Proof.Machine
end

