-- ==== Sys2Proof/Machine/Assembler.lean ====
section
/-! DEFINITION. The assembler's side of the encoding: mnemonics (R106), host transactions (R107) and pseudo-instructions (R108). None of it adds a behaviour: each is a list of host turns. -/

namespace Sys2Proof.Machine

/-- The mnemonic of a command, in lower case (R106: "Mnemonics are case-insensitive"). -/
def mnemonic : Instr → List Char
  | .nop => "nop".toList
  | .initSha256 => "init sha256".toList
  | .initSha512 => "init sha512".toList
  | .initSha384 => "init sha384".toList
  | .openBuf => "open_buf".toList
  | .openStream => "open_stream".toList
  | .next => "next".toList
  | .compress => "compress".toList
  | .run => "run".toList

/-- Every command. -/
def allInstrs : List Instr :=
  [.nop, .initSha256, .initSha512, .initSha384, .openBuf, .openStream, .next, .compress, .run]

/-- The command a line of assembler text names, its mnemonic in any case (R106). DESIGN CHOICE (log entry 16): R106 says
of mnemonics only that they are case-insensitive, and here INIT's operand is read in any case too. -/
def assemble (text : List Char) : Option Instr :=
  allInstrs.find? fun i => mnemonic i == text.map Char.toLower

/-- The window offset of ADDR (R31). -/
def offAddr : Nat := 0x018
/-- The window offset of NBITS (R31). -/
def offNbits : Nat := 0x020
/-- The window offset of STATUS (R31). -/
def offStatus : Nat := 0x008
/-- The window offset of H[i] (R31). -/
def offH (i : Nat) : Nat := 0x040 + 8 * i
/-- The window offset of M[j] (R31). -/
def offM (j : Nat) : Nat := 0x080 + 8 * j

/-- WR of R107. -/
def wr (off : Nat) (v : BitVec 64) : Turn := .write 64 off v
/-- RD of R107. -/
def rd (off : Nat) : Turn := .read 64 off
/-- A command line: "shorthand for WR CMD, <word>" (R107). -/
def cmd (i : Instr) : Turn := wr 0x000 (cmdWrite i)

/-- The INIT command of an algorithm (R103). -/
def initOf : Alg → Instr
  | .sha256 => .initSha256
  | .sha512 => .initSha512
  | .sha384 => .initSha384

/-- HASHBUF alg, addr, nbits (R108). -/
def hashBuf (a : Alg) (addr nbits : BitVec 64) : List Turn :=
  [wr offAddr addr, wr offNbits nbits, cmd (initOf a), cmd .openBuf, cmd .run]

/-- HASHSTREAM alg (R108). -/
def hashStream (a : Alg) : List Turn := [cmd (initOf a), cmd .openStream, cmd .run]

/-- LOADBLK w0, ..., w15 (R108). -/
def loadBlk (w : Vector Reg 16) : List Turn := (List.range 16).map fun j => wr (offM j) (w[j]?.getD 0)

/-- LOADH h0, ..., h7 (R108). -/
def loadH (w : Vector Reg 8) : List Turn := (List.range 8).map fun i => wr (offH i) (w[i]?.getD 0)

/-- RDDIGEST: H0 to H<DW-1>, then STATUS (R108). -/
def rdDigest (a : Alg) : List Turn := (List.range a.digestWords).map (fun i => rd (offH i)) ++ [rd offStatus]

end Sys2Proof.Machine
end

