-- ==== Sys2Proof/Safety.lean ====
section
/-! DEFINITION. What statements about safe runs are said in: the reachable-state invariant (R58), the digest of a message (R275), a source whose run has ended well (R278, R350). -/

namespace Sys2Proof.Machine

/-- The invariant of R58, clauses (a) to (f), (h) and (i) (clause (g) holds by the types), with what the other rules say of every state:
the range of the buffer still to read (R73), LEN in SHA-256 mode (R46), the errors that are never raised (R307, R308), the stream handle
(R78), and the model's own fields in order. -/
structure State.Inv (s : State) : Prop where
  /-- R58 (a) -/
  unconfigured : s.cfg = false → s.src = .none
  /-- R58 (b) -/
  noSource : s.src = .none → s.ps = .unpadded ∧ s.exh = false ∧ s.sopen = false ∧ s.fullrem = 0
  /-- R58 (c) -/
  bufferSource : s.src = .buffer → s.ps ≠ .unpadded ∧ s.sopen = false
  /-- R58 (d) -/
  bufferUnread : s.src = .buffer → s.fullrem ≠ 0 → s.ps = .paddedSingleBlock ∨ s.ps = .paddedDoubleBlock
  /-- R58 (e) -/
  streamSource : s.src = .stream →
    (s.ps = .unpadded ∨ s.ps = .doubleBlockFirstHalfEmitted ∨ s.ps = .allPaddingEmitted)
      ∧ (s.sopen = true ↔ s.ps = .unpadded)
  /-- R58 (f) -/
  exhaustedPs : s.exh = true → s.ps = .allPaddingEmitted
  /-- R58 (h): BUSY only during a RUN, which has a source and no error (R274, R277) -/
  busyRun : s.busy = true → s.cfg = true ∧ s.src ≠ .none ∧ s.err = .none
  /-- R58 (i), R43 -/
  noErrorNoWord : s.err = .none → s.errcmd = 0
  /-- R307, R308 -/
  neverRaised : s.err ≠ .invariant ∧ s.err ≠ .resource
  /-- R46: in SHA-256 mode LEN fits in 64 bits -/
  lenFits : s.alg = .sha256 → s.len.toNat < 2 ^ 64
  /-- R73: no buffer read passes the top of host memory -/
  bufferInRange : s.src = .buffer → s.bufpos.toNat + s.fullrem.toNat * s.alg.blockBytes ≤ 2 ^ 64
  /-- R78: one StreamClose for each StreamOpen that returned ok, but for the handle still open -/
  handles : s.provider.opened = s.provider.closed + s.sopen.toNat
  /-- a StreamRead waits only for a stream source that still reads (R76, R77) -/
  awaitingRead : s.awaiting = true → s.cfg = true ∧ s.src = .stream ∧ s.ps = .unpadded ∧ s.err = .none
  /-- the marks of R75 end with the BUFFER source -/
  dirtySource : s.src ≠ .buffer → s.dirty = []
  /-- host memory keeps its canonical form -/
  memory : s.mem.wf = true

/-- A state as it stands at reset, with any host memory, any stream provider that has seen nothing yet, any host agenda
and any reset samples. -/
def State.atReset (s : State) : Prop :=
  ∃ (mem : Memory) (opens : Answers Bool) (reads : Answers ReadAnswer) (agenda : List Turn) (rst : List Bool),
    mem.wf = true ∧ s = { State.reset with
      mem := mem, provider := { opens := opens, reads := reads, opened := 0, closed := 0 }, agenda := agenda, rst := rst }

/-- The digest state after the message blocks of PadBytes, compressed in order from the IV (R275). -/
def hashMessage (a : Alg) (msg : List Byte) (lfield : Nat) : Vector Reg 8 :=
  (blocksOf a (padBytes a msg lfield)).foldl (fun h block => foldBlock a h (normalize a block)) (initVector a)

/-- A computation that has ended well: "H holds a digest only when the computation ended with STATUS.ERR = 0 and
STATUS.EXH = 1" (R278, R350), and the RUN is over. -/
def State.finished (s : State) : Prop := s.busy = false ∧ s.exh = true ∧ s.err = .none

/-- The bytes msg lie in host memory from address a on (R72). -/
def holdsMessage (mem : Memory) (a : Nat) (msg : List Byte) : Prop :=
  ∀ i, (hi : i < msg.length) → mem.read (a + i) = some msg[i]

/-- INIT is issued by this step: the host's CMD write of an INIT word, not held (R270, R272). -/
def issuesInit (s : State) : Prop :=
  s.busy = false ∧ s.awaiting = false ∧
    ∃ a rest, s.agenda = .write 64 0x000 (cmdWrite (initOf a)) :: rest

/-- Reset is asserted at this step (R340). -/
def resetAsserted (s : State) : Prop := s.rst.head? = some true

end Sys2Proof.Machine
end

