-- ==== Sys2Proof/Certificates/Slice0/Obligations.lean ====
section
/-! DEFINITION. The statements about the CORE, for the provers. Each docstring names the rule of the spec it formalises. -/

open Sys2Proof Sys2Proof.Machine

/-! ### Encoding -/

/-- The nine legal words of R102, written out from OP [7:0] and ALG [9:8], and words of its reserved
row. -/
def Obligations.LegalWordsOfR102Decode : Prop :=
  decode 0x0000000000000000 = .instr .nop ∧
  decode 0x0000000000000001 = .instr .initSha256 ∧
  decode 0x0000000000000101 = .instr .initSha512 ∧
  decode 0x0000000000000201 = .instr .initSha384 ∧
  decode 0x0000000000000002 = .instr .openBuf ∧
  decode 0x0000000000000003 = .instr .openStream ∧
  decode 0x0000000000000004 = .instr .next ∧
  decode 0x0000000000000005 = .instr .compress ∧
  decode 0x0000000000000006 = .instr .run ∧
  decode 0x0000000000000007 = .illegal .opcode ∧
  decode 0x00000000000000ff = .illegal .opcode

/-- R101: the legality condition in the rule's own fields, what an illegal word does, and that the well-formedness check
of a command word is the same condition. -/
def Obligations.WordIsLegalExactlyByItsFields : Prop :=
  ∀ v : BitVec 64,
    ((∃ i, decode v = .instr i) ↔
      v.extractLsb 63 32 = 0 ∧ v.extractLsb 31 10 = 0 ∧ (v.extractLsb 7 0).toNat ≤ 6 ∧
        (v.extractLsb 7 0 ≠ 1 → v.extractLsb 9 8 = 0) ∧ (v.extractLsb 7 0 = 1 → (v.extractLsb 9 8).toNat ≤ 2)) ∧
    (commandLegal v = true ↔ ∃ i, decode v = .instr i) ∧
    ((¬ ∃ i, decode v = .instr i) → ∀ s : State, s.err = .none →
      issue v s = .next { s with err := .illegal, errcmd := v.extractLsb 31 0 })

/-- R104: a CMD write is illegal exactly in the five classes; each raises E_ILLEGAL and has no other effect (R303); and
NOP is a true no-operation. -/
def Obligations.IllegalWritesOnlyRecordTheError : Prop :=
  (∀ v : BitVec 64, (¬ ∃ i, decode v = .instr i) ↔
    (v.extractLsb 63 32 ≠ 0 ∨ v.extractLsb 31 10 ≠ 0 ∨ 0x07 ≤ (v.extractLsb 7 0).toNat ∨
      ((v.extractLsb 7 0 = 0x00 ∨ (0x02 ≤ (v.extractLsb 7 0).toNat ∧ (v.extractLsb 7 0).toNat ≤ 0x06)) ∧
        v.extractLsb 9 8 ≠ 0) ∨
      (v.extractLsb 7 0 = 0x01 ∧ v.extractLsb 9 8 = 3))) ∧
  (∀ (v : BitVec 64) (s : State), (¬ ∃ i, decode v = .instr i) → s.err = .none →
    issue v s = .next { s with err := .illegal, errcmd := v.extractLsb 31 0 }) ∧
  (∀ s : State, issue 0 s = .next s)

/-- Decode and encode agree on all of Instr, both ways, and on the host's numbering of a table row's word (R102, R105). -/
def Obligations.DecodeAndEncodeAgree : Prop :=
  (∀ i : Instr, i.wellFormed = true →
    decode (cmdWrite i) = .instr i ∧ decodeTableWord 32 (encode i).toNat = some i) ∧
  (∀ (v : BitVec 64) (i : Instr), decode v = .instr i → v = cmdWrite i)

/-! ### Issue and step -/

/-- R270: a CMD write that is not held issues its value, and a value that decodes to a command executes that command, on
the state with the host's turn taken (how the host's turns and the reset samples are taken is the model's, log entries 1
and 6). -/
def Obligations.StepRunsTheDecodedCommand : Prop :=
  ∀ (s : State) (v : BitVec 64) (later : List Turn),
    ¬ resetAsserted s → s.busy = false → s.awaiting = false → s.agenda = .write 64 0x000 v :: later →
    step s = issue v { s with rst := s.rst.tail, agenda := later } ∧
    ∀ i, decode v = .instr i → step s = exec i { s with rst := s.rst.tail, agenda := later }

/-- The step of withFetchWord runs exactly the table row's command. -/
def Obligations.FetchWordStepRunsTheRow : Prop :=
  ∀ (s : State) (nbits w : Nat) (i : Instr),
    decodeTableWord nbits w = some i →
    step (s.withFetchWord nbits w) = exec i { s with busy := false, awaiting := false }

/-- What a step does where the host starts nothing: a waiting NEXT goes on before the host's later turns (R77, R83; how a
wait is stepped is the model's, log entry 5), a RUN takes a RunStep (R276), and otherwise nothing happens (R317; how the
host's turns are scheduled is the model's, log entry 1). -/
def Obligations.StepWithoutAHostTurn : Prop :=
  ∀ s : State, ¬ resetAsserted s →
    (s.busy = false → s.awaiting = true → step s = exec .next { s with rst := s.rst.tail, awaiting := false }) ∧
    (s.busy = true → s.agenda = [] → step s = .next (runStep { s with rst := s.rst.tail })) ∧
    (∀ later, s.busy = true → s.agenda = .idle :: later →
      step s = .next (runStep { s with rst := s.rst.tail, agenda := later })) ∧
    (s.busy = false → s.awaiting = false → s.agenda = [] → step s = .next { s with rst := s.rst.tail }) ∧
    (∀ later, s.busy = false → s.awaiting = false → s.agenda = .idle :: later →
      step s = .next { s with rst := s.rst.tail, agenda := later }) ∧
    (∀ a v later, (s.busy = true ∨ s.awaiting = false) → s.agenda = .memory a v :: later →
      step s = .next (hostMemory a v { s with rst := s.rst.tail, agenda := later }))

/-- R305: with an error recorded every command but NOP and INIT, and every illegal word, has no effect at all; register
writes still take effect; and only INIT and reset clear ERR. -/
def Obligations.ErrorIsSticky : Prop :=
  (∀ (i : Instr) (s : State), s.err ≠ .none →
    i ≠ .nop → i ≠ .initSha256 → i ≠ .initSha512 → i ≠ .initSha384 → exec i s = .next s) ∧
  (∀ (v : BitVec 64) (s : State), s.err ≠ .none → (¬ ∃ i, decode v = .instr i) → issue v s = .next s) ∧
  (∀ (off : Nat) (v : BitVec 64) (s : State), s.err ≠ .none → off % 8 = 0 → off ≠ 0 →
    hostWrite 64 off v s = .next (writeReg off v s)) ∧
  (∀ s t : State, step s = .next t → s.err ≠ .none → (t.err = .none ∨ t.errcmd ≠ s.errcmd) → s.Inv →
    resetAsserted s ∨ issuesInit s)

/-! ### Reset and the invariant -/

/-- R340, R341, R342: the reset step, from any state, also while BUSY or while a StreamRead waits: every register at its
reset value, every register read 0, one StreamClose if a stream was open, nothing else of the provider touched but the
answer in progress. What the agents keep is the model's (log entries 1 to 7). -/
def Obligations.ResetStepLeavesTheResetState : Prop :=
  ∀ (s : State) (later : List Bool), s.rst = true :: later →
    ∃ t, step s = .next t ∧
      t.alg = .sha256 ∧ t.cfg = false ∧ t.src = .none ∧ t.ps = .unpadded ∧ t.exh = false ∧ t.bv = false ∧
      t.busy = false ∧ t.sopen = false ∧ t.err = .none ∧ t.errcmd = 0 ∧ t.addr = 0 ∧ t.nbits = 0 ∧ t.len = 0 ∧
      t.blkcnt = 0 ∧ t.h = nullDigest ∧ t.m = Vector.replicate 16 0 ∧ t.tail = Vector.replicate 256 0 ∧
      t.bufpos = 0 ∧ t.fullrem = 0 ∧ t.awaiting = false ∧
      (∀ off, readReg t off = 0) ∧
      t.provider.closed = s.provider.closed + s.sopen.toNat ∧ t.provider.opened = s.provider.opened ∧
      t.provider.opens = s.provider.opens ∧ (s.awaiting = false → t.provider.reads = s.provider.reads) ∧
      t.mem = s.mem ∧ t.agenda = s.agenda ∧ t.rst = later

/-- The invariant of R58 holds of every state at reset, whatever the agents will do. -/
def Obligations.ResetMeetsTheInvariant : Prop :=
  State.reset.Inv ∧ ∀ s : State, s.atReset → s.Inv

/-- R58: every step keeps the invariant, from every state that meets it. -/
def Obligations.EveryStepKeepsTheInvariant : Prop :=
  ∀ s t : State, s.Inv → step s = .next t → t.Inv

/-- R307, R308, R78: whatever the host, the provider, the memory and the platform do, no run from reset ever records
E_INVARIANT or E_RESOURCE, and the StreamCloses match the successful StreamOpens but for the handle still open. -/
def Obligations.NoRunFromResetRaisesInvariantOrResource : Prop :=
  ∀ (n : Nat) (s t : State), s.atReset → core.run n s = .next t →
    t.err ≠ .invariant ∧ t.err ≠ .resource ∧ t.provider.opened = t.provider.closed + t.sopen.toNat

/-! ### NOP, INIT, errors -/

/-- R271: NOP leaves the state unchanged, from every state, and a CMD write with bits [63:32] ≠ 0 and bits [31:0] = 0 is
illegal, not NOP. -/
def Obligations.NopLeavesTheStateUnchanged : Prop :=
  (∀ s : State, exec .nop s = .next s) ∧
  (∀ v : BitVec 64, v.extractLsb 31 0 = 0 → v.extractLsb 63 32 ≠ 0 → ∃ why, decode v = .illegal why) ∧
  decode 0 = .instr .nop

/-- R272: INIT from every state, with the initialization vectors of R204, R244 and R245 (dirty is the model's own, log entry
3); its three words; and ALG field 3 is no INIT (R103). -/
def Obligations.InitLoadsTheIvAndClears : Prop :=
  ∀ s : State,
    let after := fun (a : Alg) (iv : Vector Reg 8) => ({ s with
      alg := a, cfg := true, h := iv, src := .none, ps := .unpadded, exh := false, bv := false, sopen := false,
      len := 0, blkcnt := 0, bufpos := 0, fullrem := 0, tail := Vector.replicate 256 0, err := .none, errcmd := 0,
      dirty := [],
      provider := if s.sopen then { s.provider with closed := s.provider.closed + 1 } else s.provider } : State)
    exec .initSha256 s = .next (after .sha256 #v[0x6a09e667, 0xbb67ae85, 0x3c6ef372, 0xa54ff53a,
      0x510e527f, 0x9b05688c, 0x1f83d9ab, 0x5be0cd19]) ∧
    exec .initSha512 s = .next (after .sha512 #v[0x6a09e667f3bcc908, 0xbb67ae8584caa73b, 0x3c6ef372fe94f82b,
      0xa54ff53a5f1d36f1, 0x510e527fade682d1, 0x9b05688c2b3e6c1f, 0x1f83d9abfb41bd6b, 0x5be0cd19137e2179]) ∧
    exec .initSha384 s = .next (after .sha384 #v[0xcbbb9d5dc1059ed8, 0x629a292a367cd507, 0x9159015a3070dd17,
      0x152fecd8f70e5939, 0x67332667ffc00b31, 0x8eb44a8768581511, 0xdb0c2e0d64f98fa7, 0x47b5481dbefa4fa4]) ∧
    decode 0x00000001 = .instr .initSha256 ∧ decode 0x00000101 = .instr .initSha512 ∧
    decode 0x00000201 = .instr .initSha384 ∧ decode 0x00000301 = .illegal .algReserved

/-- R303 and R304: what each class of error changes, and that it changes nothing else (dirty is the model's own, log entry
3). -/
def Obligations.ErrorsChangeExactlyTheirRecord : Prop :=
  ∀ (word : Word32) (s : State),
    (∀ code : ErrCode, code = .illegal ∨ code = .seq →
      raiseError code word s = { s with err := code, errcmd := word }) ∧
    (∀ code : ErrCode, code = .openFail ∨ code = .io ∨ code = .bus ∨ code = .length ∨ code = .invariant ∨
        code = .resource →
      raiseError code word s = { s with
        sopen := false
        provider := if s.sopen then { s.provider with closed := s.provider.closed + 1 } else s.provider
        h := #v[0, 0, 0, 0, 0, 0, 0, 0]
        src := .none, ps := .unpadded, exh := false, bv := false, bufpos := 0, fullrem := 0, busy := false
        dirty := []
        err := code, errcmd := word })

/-- R279: the sequencing checks of the commands, each of which raises E_SEQ with its own command word and nothing else. -/
def Obligations.SequencingChecksRaiseSeq : Prop :=
  ∀ s : State, s.err = .none →
    (s.cfg = false ∨ s.src ≠ .none →
      exec .openBuf s = .next { s with err := .seq, errcmd := 0x00000002 } ∧
      exec .openStream s = .next { s with err := .seq, errcmd := 0x00000003 }) ∧
    (s.cfg = false ∨ s.src = .none →
      exec .next s = .next { s with err := .seq, errcmd := 0x00000004 } ∧
      exec .run s = .next { s with err := .seq, errcmd := 0x00000006 }) ∧
    (s.cfg = false → exec .compress s = .next { s with err := .seq, errcmd := 0x00000005 })

/-! ### The padder -/

/-- R136, for both values of NONALIGNED_LENGTH_FIELD (openBuf) and for the one this hardware takes (exec): the checks in
the order of the pseudocode, and the opened source. sourceError is the effect of R304 (see ErrorsChangeExactlyTheirRecord). -/
def Obligations.OpenBufFollowsItsPseudocode : Prop :=
  ∀ (mode : LengthFieldMode) (s : State), s.cfg = true → s.src = .none →
    let nbytes := (s.nbits.toNat + 7) / 8
    let lfield := if mode = .rounded then 8 * nbytes else s.nbits.toNat
    let bb := s.alg.blockBytes
    let full := nbytes / bb
    let rem := nbytes % bb
    let r := memRead s.mem [] 0 (s.addr.toNat + full * bb) rem
    (2 ^ s.alg.lenBits ≤ lfield → openBuf mode 0x00000002 s = sourceError .length 0x00000002 s) ∧
    (lfield < 2 ^ s.alg.lenBits → 2 ^ 64 < s.addr.toNat + nbytes →
      openBuf mode 0x00000002 s = sourceError .bus 0x00000002 s) ∧
    (lfield < 2 ^ s.alg.lenBits → s.addr.toNat + nbytes ≤ 2 ^ 64 → r = none →
      openBuf mode 0x00000002 s = sourceError .bus 0x00000002 s) ∧
    (∀ t, lfield < 2 ^ s.alg.lenBits → s.addr.toNat + nbytes ≤ 2 ^ 64 → r = some t →
      openBuf mode 0x00000002 s = { s with
        tail := tailBytes s.alg t lfield
        ps := if rem ≤ bb - s.alg.lenBytes - 1 then .paddedSingleBlock else .paddedDoubleBlock
        src := .buffer, bufpos := s.addr, fullrem := BitVec.ofNat 64 full, len := BitVec.ofNat 128 lfield
        blkcnt := 0, exh := false, bv := false, dirty := [] }) ∧
    (s.err = .none → exec .openBuf s = .next (openBuf .rounded 0x00000002 s))

/-- R136 and R73: with a source not open and a buffer that fits and answers, OPEN_BUF opens the BUFFER source. -/
def Obligations.OpenBufCompletes : Prop :=
  ∀ s : State, s.err = .none → s.cfg = true → s.src = .none →
    8 * messageBytes s.nbits.toNat < 2 ^ s.alg.lenBits →
    s.addr.toNat + messageBytes s.nbits.toNat ≤ 2 ^ 64 →
    (∀ i, i < messageBytes s.nbits.toNat → (s.mem.read (s.addr.toNat + i)).isSome = true) →
    ∃ t, exec .openBuf s = .next t ∧ t.src = .buffer ∧ t.err = .none ∧ t.bufpos = s.addr ∧
      t.fullrem.toNat = messageBytes s.nbits.toNat / s.alg.blockBytes ∧
      t.len.toNat = 8 * messageBytes s.nbits.toNat ∧ t.blkcnt = 0 ∧ t.exh = false ∧ t.bv = false ∧
      (t.ps = .paddedSingleBlock ↔
        messageBytes s.nbits.toNat % s.alg.blockBytes ≤ s.alg.blockBytes - s.alg.lenBytes - 1) ∧
      (t.ps = .paddedSingleBlock ∨ t.ps = .paddedDoubleBlock) ∧
      t.alg = s.alg ∧ t.cfg = true ∧ t.h = s.h ∧ t.m = s.m ∧ t.addr = s.addr ∧ t.nbits = s.nbits ∧
      t.sopen = s.sopen ∧ t.busy = s.busy ∧ t.errcmd = s.errcmd ∧ t.provider = s.provider ∧
      ∀ a, t.mem.read a = s.mem.read a

/-- R138: OPEN_STREAM with the provider's answer ok, and with the answer fail. That the provider answers in the same step,
from its list, is the model's choice (log entry 4). -/
def Obligations.OpenStreamFollowsItsPseudocode : Prop :=
  ∀ s : State, s.err = .none → s.cfg = true → s.src = .none →
    (s.provider.opens.pop.1 = true → exec .openStream s = .next { s with
      provider := { s.provider with opens := s.provider.opens.pop.2, opened := s.provider.opened + 1 }
      src := .stream, sopen := true, ps := .unpadded, len := 0, blkcnt := 0, exh := false, bv := false }) ∧
    (s.provider.opens.pop.1 = false → exec .openStream s = .next
      (sourceError .openFail 0x00000003 { s with provider := { s.provider with opens := s.provider.opens.pop.2 } }))

/-- R140: NEXT in BUFFER mode. A full block that answers is delivered, one that does not raises E_BUS, and then come the
tail blocks, TAIL[0..BB-1] and TAIL[BB..2·BB-1] as R50 and R140 say (how R7's words on SHA-256 are read is log entry 17;
draws is the model's own, log entry 3). -/
def Obligations.NextBufferDeliversInOrder : Prop :=
  ∀ s : State, s.err = .none → s.cfg = true → s.src = .buffer →
    let bb := s.alg.blockBytes
    let r := memRead s.mem s.dirty s.draws s.bufpos.toNat bb
    (∀ block, s.ps = .paddedSingleBlock ∨ s.ps = .paddedDoubleBlock → s.fullrem ≠ 0 → r = some block →
      exec .next s = .next { s with
        m := normalize s.alg block, bufpos := s.bufpos + BitVec.ofNat 64 bb, fullrem := s.fullrem - 1
        draws := s.draws + bb, blkcnt := s.blkcnt + 1, bv := true }) ∧
    (s.ps = .paddedSingleBlock ∨ s.ps = .paddedDoubleBlock → s.fullrem ≠ 0 → r = none →
      exec .next s = .next (sourceError .bus 0x00000004 s)) ∧
    (s.fullrem = 0 → s.ps = .paddedSingleBlock → exec .next s = .next { s with
      m := normalize s.alg (s.tail.toList.take bb), ps := .allPaddingEmitted, blkcnt := s.blkcnt + 1, bv := true }) ∧
    (s.fullrem = 0 → s.ps = .paddedDoubleBlock → exec .next s = .next { s with
      m := normalize s.alg (s.tail.toList.take bb), ps := .doubleBlockFirstHalfEmitted
      blkcnt := s.blkcnt + 1, bv := true }) ∧
    (s.fullrem = 0 → s.ps = .doubleBlockFirstHalfEmitted → exec .next s = .next { s with
      m := normalize s.alg ((s.tail.toList.drop bb).take bb), ps := .allPaddingEmitted
      blkcnt := s.blkcnt + 1, bv := true })

/-- R141, R145, R146: NEXT in STREAM mode while PS = Unpadded: a full read, a short read with and without room for the
length field (the stream is closed), a read error, and a bit count that does not fit. No answer yet: NEXT waits (the
provider's answers and the wait are the model's, log entries 4 and 5). -/
def Obligations.NextStreamReadsInOrder : Prop :=
  ∀ (s : State) (bytes : List Byte) (listed : List ReadAnswer),
    s.err = .none → s.cfg = true → s.src = .stream → s.ps = .unpadded → s.sopen = true →
    let bb := s.alg.blockBytes
    let lb := s.alg.lenBytes
    let k := bytes.length
    let p : Provider := { s.provider with reads := { s.provider.reads with listed := listed } }
    let len := s.len + BitVec.ofNat 128 (8 * k)
    (s.provider.streamRead bb = (.data bytes, p) → s.len.toNat + 8 * k < 2 ^ s.alg.lenBits → k = bb →
      exec .next s = .next { s with
        provider := p, len := len, m := normalize s.alg bytes, blkcnt := s.blkcnt + 1, bv := true }) ∧
    (s.provider.streamRead bb = (.data bytes, p) → s.len.toNat + 8 * k < 2 ^ s.alg.lenBits → k ≤ bb - lb - 1 →
      exec .next s = .next { s with
        provider := { p with closed := p.closed + 1 }, sopen := false, len := len
        m := normalize s.alg (bytes ++ [0x80] ++ zeros (bb - lb - k - 1) ++ beBytes lb len.toNat)
        ps := .allPaddingEmitted, blkcnt := s.blkcnt + 1, bv := true }) ∧
    (s.provider.streamRead bb = (.data bytes, p) → s.len.toNat + 8 * k < 2 ^ s.alg.lenBits →
      bb - lb ≤ k → k < bb →
      exec .next s = .next { s with
        provider := { p with closed := p.closed + 1 }, sopen := false, len := len
        m := normalize s.alg (bytes ++ [0x80] ++ zeros (bb - k - 1))
        ps := .doubleBlockFirstHalfEmitted, blkcnt := s.blkcnt + 1, bv := true }) ∧
    (s.provider.streamRead bb = (.data bytes, p) → 2 ^ s.alg.lenBits ≤ s.len.toNat + 8 * k →
      exec .next s = .next (sourceError .length 0x00000004 { s with provider := p })) ∧
    (s.provider.streamRead bb = (.ioerr, p) →
      exec .next s = .next (sourceError .io 0x00000004 { s with provider := p })) ∧
    (s.provider.streamRead bb = (.later, p) →
      exec .next s = .next { s with provider := p, awaiting := true })

/-- R77, R79: what a StreamRead answers: at most n bytes, the bytes of a longer answer stay in the stream in order, an
error and a wait are used up, and nothing else of the provider changes. The answers as data, and their cutting to n bytes,
are the model's choice (log entry 4). -/
def Obligations.StreamReadGivesTheNextBytes : Prop :=
  ∀ (n : Nat) (p : Provider),
    (∀ bytes, (p.streamRead n).1 = .data bytes → bytes.length ≤ n) ∧
    (∀ bytes more, p.reads.listed = .data bytes :: more →
      (p.streamRead n).1 = .data (bytes.take n) ∧
      (n < bytes.length → (p.streamRead n).2.reads.listed = .data (bytes.drop n) :: more) ∧
      (bytes.length ≤ n → (p.streamRead n).2.reads.listed = more)) ∧
    (∀ more, p.reads.listed = .ioerr :: more →
      (p.streamRead n).1 = .ioerr ∧ (p.streamRead n).2.reads.listed = more) ∧
    (∀ more, p.reads.listed = .later :: more →
      (p.streamRead n).1 = .later ∧ (p.streamRead n).2.reads.listed = more) ∧
    (p.reads.listed = [] → (p.streamRead n).2 = p ∧
      (∀ bytes, p.reads.rest = .data bytes → (p.streamRead n).1 = .data (bytes.take n)) ∧
      (p.reads.rest = .ioerr → (p.streamRead n).1 = .ioerr) ∧
      (p.reads.rest = .later → (p.streamRead n).1 = .later)) ∧
    (p.streamRead n).2.reads.rest = p.reads.rest ∧ (p.streamRead n).2.opened = p.opened ∧
    (p.streamRead n).2.closed = p.closed ∧ (p.streamRead n).2.opens = p.opens

/-- R142: the length-only block of a stream, with no stream request. -/
def Obligations.NextStreamLengthOnlyBlock : Prop :=
  ∀ s : State, s.err = .none → s.cfg = true → s.src = .stream → s.ps = .doubleBlockFirstHalfEmitted →
    s.sopen = false →
    exec .next s = .next { s with
      m := normalize s.alg (zeros (s.alg.blockBytes - s.alg.lenBytes) ++ beBytes s.alg.lenBytes s.len.toNat)
      ps := .allPaddingEmitted, blkcnt := s.blkcnt + 1, bv := true }

/-- R143: exhaustion, in either mode, every time. -/
def Obligations.NextSignalsExhaustionAgain : Prop :=
  ∀ s : State, s.err = .none → s.cfg = true → s.ps = .allPaddingEmitted →
    (s.src = .buffer ∧ s.fullrem = 0) ∨ (s.src = .stream ∧ s.sopen = false) →
    exec .next s = .next { s with exh := true, bv := false } ∧
    exec .next { s with exh := true, bv := false } = .next { s with exh := true, bv := false }

/-- R144: the impossible combinations raise E_INVARIANT and deliver no block (SRC = 3 and PS 5 to 7 are excluded by the
types, as the rule allows). -/
def Obligations.ImpossiblePaddingStateRaisesInvariant : Prop :=
  ∀ s : State, s.err = .none → s.cfg = true →
    (s.src = .buffer ∧ s.ps = .unpadded) ∨
    (s.src = .buffer ∧ s.fullrem ≠ 0 ∧ (s.ps = .doubleBlockFirstHalfEmitted ∨ s.ps = .allPaddingEmitted)) ∨
    (s.src = .stream ∧ (s.ps = .paddedSingleBlock ∨ s.ps = .paddedDoubleBlock)) ∨
    (s.src = .stream ∧ s.sopen = true ∧ s.ps ≠ .unpadded) ∨
    (s.src = .stream ∧ s.sopen = false ∧ s.ps = .unpadded) →
    exec .next s = .next (sourceError .invariant 0x00000004 s)

/-- R37: once EXH is 1 it stays 1 until INIT or reset (no fatal error can be raised from an exhausted source). -/
def Obligations.ExhaustionLastsUntilInitOrReset : Prop :=
  ∀ s t : State, s.Inv → s.exh = true → step s = .next t →
    t.exh = true ∨ resetAsserted s ∨ issuesInit s

/-! ### COMPRESS and RUN -/

/-- R273 with its arms R209 and R250: the new H, word by word, BV cleared and nothing else changed; E_SEQ before any INIT. -/
def Obligations.CompressFoldsTheBlock : Prop :=
  ∀ s : State, s.err = .none →
    (s.cfg = false → exec .compress s = .next { s with err := .seq, errcmd := 0x00000005 }) ∧
    (s.cfg = true → s.alg = .sha256 → ∃ out, compress256 (Vector.ofFn fun i => lo s.h[i]) (Vector.ofFn fun j => lo s.m[j]) = out ∧
      exec .compress s = .next { s with h := Vector.ofFn fun i => zext64 out[i], bv := false }) ∧
    (s.cfg = true → s.alg = .sha512 ∨ s.alg = .sha384 → exec .compress s = .next { s with h := compress512 s.h s.m, bv := false })

/-- R274: RUN's issue step. -/
def Obligations.RunSetsBusy : Prop :=
  ∀ s : State, s.err = .none → s.cfg = true → s.src ≠ .none → exec .run s = .next { s with busy := true }

/-- R276, R277: a RunStep, also one that goes on after a wait, is NEXT and then COMPRESS, ends the RUN at exhaustion, and on
an error ends it with ERRCMD the RUN word; while the provider has no answer it changes what NEXT's wait changes (the wait
is the model's, log entry 5). -/
def Obligations.RunStepIsNextThenCompress : Prop :=
  ∀ s t : State, s.busy = true → s.cfg = true → s.src ≠ .none → s.err = .none →
    exec .next { s with awaiting := false } = .next t →
    (t.awaiting = true → runStep s = t) ∧
    (t.awaiting = false → t.err ≠ .none → runStep s = { t with busy := false, errcmd := 0x00000006 }) ∧
    (t.awaiting = false → t.err = .none → t.exh = true → runStep s = { t with busy := false }) ∧
    (t.awaiting = false → t.err = .none → t.exh = false → exec .compress t = .next (runStep s))

/-- R348, R32 (g): while BUSY = 1 a host write, to any offset, is held: the step is a RunStep and the write stays; a read
is not held. (How the host's turns and the reset samples are taken is the model's, log entries 1 and 6.) -/
def Obligations.WritesAreHeldWhileBusy : Prop :=
  ∀ (s : State) (width off : Nat) (v : BitVec 64) (later : List Turn), ¬ resetAsserted s → s.busy = true →
    (s.agenda = .write width off v :: later →
      step s = .next (runStep { s with rst := s.rst.tail }) ∧
      (runStep { s with rst := s.rst.tail }).agenda = .write width off v :: later) ∧
    (s.agenda = .read 64 (8 * off) :: later →
      step s = .next { s with rst := s.rst.tail, agenda := later, rdata := readReg s (8 * off) })

/-- R275, R276 (BUFFER): from any state with no RUN in progress, INIT, OPEN_BUF and RUN on a buffer that holds the message
compress the blocks of PadBytes in order from the IV, and the RUN ends after exactly N + 1 RunSteps. lf is the length
field under the value of NONALIGNED_LENGTH_FIELD that Config names; for a length in whole bytes it is the same under
both (R131). -/
def Obligations.RunHashesTheBuffer : Prop :=
  ∀ (a : Alg) (msg : List Byte) (lf : Nat) (s : State),
    s.busy = false → s.awaiting = false → s.agenda = [] → s.rst = [] →
    messageBytes s.nbits.toNat = msg.length →
    lengthField Config.nonalignedLengthField s.nbits.toNat = lf → lf < 2 ^ a.lenBits →
    s.addr.toNat + msg.length ≤ 2 ^ 64 → holdsMessage s.mem s.addr.toNat msg →
    ∃ s1 s2 s3 t,
      exec (initOf a) s = .next s1 ∧ exec .openBuf s1 = .next s2 ∧ exec .run s2 = .next s3 ∧
      (∀ k, k ≤ blockCount a msg.length → ∃ u, core.run k s3 = .next u ∧ u.busy = true) ∧
      core.run (blockCount a msg.length + 1) s3 = .next t ∧ t.finished ∧
      t.blkcnt = BitVec.ofNat 64 (blockCount a msg.length) ∧ t.alg = a ∧ t.h = hashMessage a msg lf

/-- R275, R276 (STREAM): the same for a provider that opens and gives the message in full reads and then the rest (one
listed answer, which is split into reads of BB bytes as log entry 4 says). -/
def Obligations.RunHashesTheStream : Prop :=
  ∀ (a : Alg) (msg : List Byte) (s : State),
    s.busy = false → s.awaiting = false → s.agenda = [] → s.rst = [] →
    s.provider.opens.pop.1 = true → s.provider.reads = { listed := [.data msg], rest := .data [] } →
    8 * msg.length < 2 ^ a.lenBits →
    ∃ s1 s2 s3 t,
      exec (initOf a) s = .next s1 ∧ exec .openStream s1 = .next s2 ∧ exec .run s2 = .next s3 ∧
      (∀ k, k ≤ blockCount a msg.length → ∃ u, core.run k s3 = .next u ∧ u.busy = true) ∧
      core.run (blockCount a msg.length + 1) s3 = .next t ∧ t.finished ∧
      t.blkcnt = BitVec.ofNat 64 (blockCount a msg.length) ∧ t.alg = a ∧
      t.h = hashMessage a msg (8 * msg.length)

/-- R147: the same bytes hashed from a buffer and from a stream give the same digest and the same block count, each RUN
ending after exactly N + 1 RunSteps. (The stream is one listed answer, split into reads of BB bytes as log entry 4 says.) -/
def Obligations.BufferAndStreamGiveTheSameDigest : Prop :=
  ∀ (a : Alg) (msg : List Byte) (s s' : State),
    s.busy = false → s.awaiting = false → s.agenda = [] → s.rst = [] →
    s.nbits.toNat = 8 * msg.length → s.addr.toNat + msg.length ≤ 2 ^ 64 → holdsMessage s.mem s.addr.toNat msg →
    s'.busy = false → s'.awaiting = false → s'.agenda = [] → s'.rst = [] →
    s'.provider.opens.pop.1 = true → s'.provider.reads = { listed := [.data msg], rest := .data [] } →
    8 * msg.length < 2 ^ a.lenBits →
    ∃ s1 s2 s3 t s1' s2' s3' t',
      exec (initOf a) s = .next s1 ∧ exec .openBuf s1 = .next s2 ∧ exec .run s2 = .next s3 ∧
      exec (initOf a) s' = .next s1' ∧ exec .openStream s1' = .next s2' ∧ exec .run s2' = .next s3' ∧
      (∀ k, k ≤ blockCount a msg.length →
        (∃ u, core.run k s3 = .next u ∧ u.busy = true) ∧ ∃ u', core.run k s3' = .next u' ∧ u'.busy = true) ∧
      core.run (blockCount a msg.length + 1) s3 = .next t ∧ core.run (blockCount a msg.length + 1) s3' = .next t' ∧
      t.finished ∧ t'.finished ∧ t.h = t'.h ∧ digestBytes a t.h = digestBytes a t'.h ∧ t.blkcnt = t'.blkcnt

/-- R351, R317: a RUN on a stream whose provider never answers goes on for ever: BUSY stays 1, a host write behind it is
never taken, and nothing of the computation changes (the wait is the model's, log entry 5). -/
def Obligations.SilentProviderHangsTheRun : Prop :=
  ∀ (s : State) (width off : Nat) (v : BitVec 64) (later : List Turn),
    s.busy = true → s.src = .stream → s.ps = .unpadded → s.sopen = true → s.rst = [] →
    s.provider.reads = { listed := [], rest := .later } → s.agenda = .write width off v :: later →
    ∀ n, core.run (n + 1) s = .next { s with awaiting := true }

/-- R276, V31: while the provider gives full reads a RUN delivers a block a RunStep and does not end, as long as the bit
count fits in the length field (R145). -/
def Obligations.FullReadsKeepTheRunGoing : Prop :=
  ∀ (s : State) (block : List Byte) (n : Nat),
    s.busy = true → s.src = .stream → s.ps = .unpadded → s.sopen = true → s.exh = false → s.rst = [] → s.agenda = [] →
    s.provider.reads = { listed := [], rest := .data block } → block.length = s.alg.blockBytes →
    s.len.toNat + 8 * s.alg.blockBytes * n < 2 ^ s.alg.lenBits →
    ∃ t, core.run n s = .next t ∧ t.busy = true ∧ t.err = s.err ∧ t.ps = .unpadded ∧ t.sopen = true ∧
      t.blkcnt = s.blkcnt + BitVec.ofNat 64 n ∧ t.len.toNat = s.len.toNat + 8 * s.alg.blockBytes * n

/-! ### The engines -/

/-- R201, R202, R241, R242: the sigma functions, by the library's rotation. -/
def Obligations.SigmaFunctionsRotate : Prop :=
  (∀ x : BitVec 32,
    Sha256.bigSigma0 x = x.rotateRight 2 ^^^ x.rotateRight 13 ^^^ x.rotateRight 22 ∧
    Sha256.bigSigma1 x = x.rotateRight 6 ^^^ x.rotateRight 11 ^^^ x.rotateRight 25 ∧
    Sha256.smallSigma0 x = x.rotateRight 7 ^^^ x.rotateRight 18 ^^^ x >>> 3 ∧
    Sha256.smallSigma1 x = x.rotateRight 17 ^^^ x.rotateRight 19 ^^^ x >>> 10) ∧
  (∀ x : BitVec 64,
    Sha512.bigSigma0 x = x.rotateRight 28 ^^^ x.rotateRight 34 ^^^ x.rotateRight 39 ∧
    Sha512.bigSigma1 x = x.rotateRight 14 ^^^ x.rotateRight 18 ^^^ x.rotateRight 41 ∧
    Sha512.smallSigma0 x = x.rotateRight 1 ^^^ x.rotateRight 8 ^^^ x >>> 7 ∧
    Sha512.smallSigma1 x = x.rotateRight 19 ^^^ x.rotateRight 61 ^^^ x >>> 6)

/-- R200, R240: the formulas, at any width; Ch takes each bit from y where x has a 1 and from z where x has a 0; Maj takes the majority. -/
def Obligations.ChoosesAndMajoritiesBitByBit : Prop :=
  ∀ (w : Nat) (x y z : BitVec w) (i : Nat),
    ch x y z = (x &&& y) ^^^ (~~~x &&& z) ∧ maj x y z = (x &&& y) ^^^ (x &&& z) ^^^ (y &&& z) ∧
    (ch x y z).getLsbD i = (if x.getLsbD i then y.getLsbD i else z.getLsbD i) ∧
    (maj x y z).getLsbD i
      = decide (2 ≤ (x.getLsbD i).toNat + (y.getLsbD i).toNat + (z.getLsbD i).toNat)

/-- R205 to R208: Compress256 is the schedule recurrence, 64 rounds and the final addition, with the round constants of
R203, row by row. -/
def Obligations.CompressTwoFiftySixIsTheRecurrence : Prop :=
  k256.length = 64 ∧
  ((k256.drop 0).take 8 = [0x428a2f98, 0x71374491, 0xb5c0fbcf, 0xe9b5dba5,
    0x3956c25b, 0x59f111f1, 0x923f82a4, 0xab1c5ed5] ∧
  (k256.drop 8).take 8 = [0xd807aa98, 0x12835b01, 0x243185be, 0x550c7dc3,
    0x72be5d74, 0x80deb1fe, 0x9bdc06a7, 0xc19bf174] ∧
  (k256.drop 16).take 8 = [0xe49b69c1, 0xefbe4786, 0x0fc19dc6, 0x240ca1cc,
    0x2de92c6f, 0x4a7484aa, 0x5cb0a9dc, 0x76f988da] ∧
  (k256.drop 24).take 8 = [0x983e5152, 0xa831c66d, 0xb00327c8, 0xbf597fc7,
    0xc6e00bf3, 0xd5a79147, 0x06ca6351, 0x14292967] ∧
  (k256.drop 32).take 8 = [0x27b70a85, 0x2e1b2138, 0x4d2c6dfc, 0x53380d13,
    0x650a7354, 0x766a0abb, 0x81c2c92e, 0x92722c85] ∧
  (k256.drop 40).take 8 = [0xa2bfe8a1, 0xa81a664b, 0xc24b8b70, 0xc76c51a3,
    0xd192e819, 0xd6990624, 0xf40e3585, 0x106aa070] ∧
  (k256.drop 48).take 8 = [0x19a4c116, 0x1e376c08, 0x2748774c, 0x34b0bcb5,
    0x391c0cb3, 0x4ed8aa4a, 0x5b9cca4f, 0x682e6ff3] ∧
  (k256.drop 56).take 8 = [0x748f82ee, 0x78a5636f, 0x84c87814, 0x8cc70208,
    0x90befffa, 0xa4506ceb, 0xbef9a3f7, 0xc67178f2]) ∧
  ∀ (hin : Vector Word32 8) (block : Vector Word32 16), ∃ (W : Nat → Word32) (v : Nat → Working 32),
    (∀ t, (ht : t < 16) → W t = block[t]) ∧
    (∀ t, 16 ≤ t → t < 64 →
      W t = Sha256.smallSigma1 (W (t - 2)) + W (t - 7) + Sha256.smallSigma0 (W (t - 15)) + W (t - 16)) ∧
    v 0 = { a := hin[0], b := hin[1], c := hin[2], d := hin[3], e := hin[4], f := hin[5], g := hin[6], h := hin[7] } ∧
    (∀ t, t < 64 →
      let x := v t
      let T1 := x.h + Sha256.bigSigma1 x.e + ch x.e x.f x.g + k256.getD t 0 + W t
      let T2 := Sha256.bigSigma0 x.a + maj x.a x.b x.c
      v (t + 1) = { a := T1 + T2, b := x.a, c := x.b, d := x.c, e := x.d + T1, f := x.e, g := x.f, h := x.g }) ∧
    compress256 hin block = #v[hin[0] + (v 64).a, hin[1] + (v 64).b, hin[2] + (v 64).c, hin[3] + (v 64).d,
      hin[4] + (v 64).e, hin[5] + (v 64).f, hin[6] + (v 64).g, hin[7] + (v 64).h]

/-- R246 to R249: Compress512 is the schedule recurrence, 80 rounds and the final addition, with the round constants of
R243, row by row. -/
def Obligations.CompressFiveTwelveIsTheRecurrence : Prop :=
  k512.length = 80 ∧
  ((k512.drop 0).take 4 = [0x428a2f98d728ae22, 0x7137449123ef65cd, 0xb5c0fbcfec4d3b2f, 0xe9b5dba58189dbbc] ∧
  (k512.drop 4).take 4 = [0x3956c25bf348b538, 0x59f111f1b605d019, 0x923f82a4af194f9b, 0xab1c5ed5da6d8118] ∧
  (k512.drop 8).take 4 = [0xd807aa98a3030242, 0x12835b0145706fbe, 0x243185be4ee4b28c, 0x550c7dc3d5ffb4e2] ∧
  (k512.drop 12).take 4 = [0x72be5d74f27b896f, 0x80deb1fe3b1696b1, 0x9bdc06a725c71235, 0xc19bf174cf692694] ∧
  (k512.drop 16).take 4 = [0xe49b69c19ef14ad2, 0xefbe4786384f25e3, 0x0fc19dc68b8cd5b5, 0x240ca1cc77ac9c65] ∧
  (k512.drop 20).take 4 = [0x2de92c6f592b0275, 0x4a7484aa6ea6e483, 0x5cb0a9dcbd41fbd4, 0x76f988da831153b5] ∧
  (k512.drop 24).take 4 = [0x983e5152ee66dfab, 0xa831c66d2db43210, 0xb00327c898fb213f, 0xbf597fc7beef0ee4] ∧
  (k512.drop 28).take 4 = [0xc6e00bf33da88fc2, 0xd5a79147930aa725, 0x06ca6351e003826f, 0x142929670a0e6e70] ∧
  (k512.drop 32).take 4 = [0x27b70a8546d22ffc, 0x2e1b21385c26c926, 0x4d2c6dfc5ac42aed, 0x53380d139d95b3df] ∧
  (k512.drop 36).take 4 = [0x650a73548baf63de, 0x766a0abb3c77b2a8, 0x81c2c92e47edaee6, 0x92722c851482353b] ∧
  (k512.drop 40).take 4 = [0xa2bfe8a14cf10364, 0xa81a664bbc423001, 0xc24b8b70d0f89791, 0xc76c51a30654be30] ∧
  (k512.drop 44).take 4 = [0xd192e819d6ef5218, 0xd69906245565a910, 0xf40e35855771202a, 0x106aa07032bbd1b8] ∧
  (k512.drop 48).take 4 = [0x19a4c116b8d2d0c8, 0x1e376c085141ab53, 0x2748774cdf8eeb99, 0x34b0bcb5e19b48a8] ∧
  (k512.drop 52).take 4 = [0x391c0cb3c5c95a63, 0x4ed8aa4ae3418acb, 0x5b9cca4f7763e373, 0x682e6ff3d6b2b8a3] ∧
  (k512.drop 56).take 4 = [0x748f82ee5defb2fc, 0x78a5636f43172f60, 0x84c87814a1f0ab72, 0x8cc702081a6439ec] ∧
  (k512.drop 60).take 4 = [0x90befffa23631e28, 0xa4506cebde82bde9, 0xbef9a3f7b2c67915, 0xc67178f2e372532b] ∧
  (k512.drop 64).take 4 = [0xca273eceea26619c, 0xd186b8c721c0c207, 0xeada7dd6cde0eb1e, 0xf57d4f7fee6ed178] ∧
  (k512.drop 68).take 4 = [0x06f067aa72176fba, 0x0a637dc5a2c898a6, 0x113f9804bef90dae, 0x1b710b35131c471b] ∧
  (k512.drop 72).take 4 = [0x28db77f523047d84, 0x32caab7b40c72493, 0x3c9ebe0a15c9bebc, 0x431d67c49c100d4c] ∧
  (k512.drop 76).take 4 = [0x4cc5d4becb3e42b6, 0x597f299cfc657e2a, 0x5fcb6fab3ad6faec, 0x6c44198c4a475817]) ∧
  ∀ (hin : Vector Reg 8) (block : Vector Reg 16), ∃ (W : Nat → Reg) (v : Nat → Working 64),
    (∀ t, (ht : t < 16) → W t = block[t]) ∧
    (∀ t, 16 ≤ t → t < 80 →
      W t = Sha512.smallSigma1 (W (t - 2)) + W (t - 7) + Sha512.smallSigma0 (W (t - 15)) + W (t - 16)) ∧
    v 0 = { a := hin[0], b := hin[1], c := hin[2], d := hin[3], e := hin[4], f := hin[5], g := hin[6], h := hin[7] } ∧
    (∀ t, t < 80 →
      let x := v t
      let T1 := x.h + Sha512.bigSigma1 x.e + ch x.e x.f x.g + k512.getD t 0 + W t
      let T2 := Sha512.bigSigma0 x.a + maj x.a x.b x.c
      v (t + 1) = { a := T1 + T2, b := x.a, c := x.b, d := x.c, e := x.d + T1, f := x.e, g := x.f, h := x.g }) ∧
    compress512 hin block = #v[hin[0] + (v 80).a, hin[1] + (v 80).b, hin[2] + (v 80).c, hin[3] + (v 80).d,
      hin[4] + (v 80).e, hin[5] + (v 80).f, hin[6] + (v 80).g, hin[7] + (v 80).h]

/-- R184, R58 (j): in SHA-256 mode the engine ignores bits [63:32] of H and M, and every engine write leaves them 0: INIT
and COMPRESS in H, a delivering NEXT in M. -/
def Obligations.UpperHalvesAreIgnoredInSha256 : Prop :=
  (∀ (h h' : Vector Reg 8) (m m' : Vector Reg 16),
    (∀ i, (hi : i < 8) → lo h[i] = lo h'[i]) → (∀ j, (hj : j < 16) → lo m[j] = lo m'[j]) →
    foldBlock .sha256 h m = foldBlock .sha256 h' m') ∧
  (∀ (h : Vector Reg 8) (m : Vector Reg 16) (i : Nat), (hi : i < 8) →
    (foldBlock .sha256 h m)[i].extractLsb 63 32 = 0 ∧ (initVector .sha256)[i].extractLsb 63 32 = 0) ∧
  (∀ (s t : State), s.alg = .sha256 → exec .next s = .next t → t.m ≠ s.m →
    ∀ j, (hj : j < 16) → t.m[j].extractLsb 63 32 = 0)

/-! ### The normalizer and the padding rule -/

/-- R181: word j of the block is its bytes WB·j to WB·j + WB - 1, the first the most significant; in SHA-256 mode bits
[63:32] are 0. -/
def Obligations.NormalizeIsBigEndian : Prop :=
  ∀ (a : Alg) (block : List Byte), block.length = a.blockBytes → ∀ j, (hj : j < 16) →
    (∀ i, (hi : i < a.wordBytes) →
      ∃ h : a.wordBytes * j + i < block.length,
        (normalize a block)[j].extractLsb' (8 * (a.wordBytes - 1 - i)) 8 = block[a.wordBytes * j + i]) ∧
    (a = .sha256 → (normalize a block)[j].extractLsb 63 32 = 0)

/-- R182: BE_n(v), byte by byte. -/
def Obligations.BigEndianBytesOfAValue : Prop :=
  ∀ n v : Nat, (beBytes n v).length = n ∧
    ∀ i, (hi : i < (beBytes n v).length) →
      (beBytes n v)[i].toNat = v / 2 ^ (8 * (n - 1 - i)) % 256

/-- R183: the length field as Normalize leaves it in M[14] and M[15]. -/
def Obligations.LengthFieldLandsInTheLastWords : Prop :=
  ∀ (a : Alg) (front : List Byte) (lf : Nat), front.length + a.lenBytes = a.blockBytes → lf < 2 ^ a.lenBits →
    let m := normalize a (front ++ beBytes a.lenBytes lf)
    (a = .sha256 → m[14] = BitVec.ofNat 64 (lf / 2 ^ 32) ∧ m[15] = BitVec.ofNat 64 (lf % 2 ^ 32)) ∧
    (a ≠ .sha256 → m[14] = BitVec.ofNat 64 (lf / 2 ^ 64) ∧ m[15] = BitVec.ofNat 64 (lf % 2 ^ 64))

/-- R185: the digest as a byte string: DW words, each big-endian, H[0] first. -/
def Obligations.DigestIsTheWordsBigEndian : Prop :=
  ∀ (a : Alg) (h : Vector Reg 8),
    (digestBytes a h).length = a.digestWords * a.wordBytes ∧
    ∀ i, (hi : i < a.digestWords) → ∀ j, j < a.wordBytes →
      ∃ hi8 : i < 8,
        (digestBytes a h)[a.wordBytes * i + j]? = some (h[i].extractLsb' (8 * (a.wordBytes - 1 - j)) 8)

/-- R132: PadBytes is the message, 0x80, the least number of zeros, and the length field; its length is a positive
multiple of BB, and its blocks are its slices of BB bytes in order. -/
def Obligations.PaddedMessageIsWholeBlocks : Prop :=
  ∀ (a : Alg) (msg : List Byte) (lf : Nat),
    (∃ z, padBytes a msg lf = msg ++ [0x80] ++ List.replicate z 0 ++ beBytes a.lenBytes lf ∧
      (msg.length + 1 + z + a.lenBytes) % a.blockBytes = 0 ∧
      ∀ y, (msg.length + 1 + y + a.lenBytes) % a.blockBytes = 0 → z ≤ y) ∧
    a.blockBytes ∣ (padBytes a msg lf).length ∧ 0 < (padBytes a msg lf).length ∧
    (blocksOf a (padBytes a msg lf)).flatten = padBytes a msg lf ∧
    ∀ b ∈ blocksOf a (padBytes a msg lf), b.length = a.blockBytes

/-- R137: the tail is exactly the last n bytes of PadBytes, n being BB or 2·BB, and TAIL holds it, followed by zeros. -/
def Obligations.TailIsTheEndOfThePaddedMessage : Prop :=
  ∀ (a : Alg) (msg : List Byte) (lf : Nat),
    let rem := msg.length % a.blockBytes
    let t := msg.drop (msg.length - rem)
    let n := if rem ≤ a.blockBytes - a.lenBytes - 1 then a.blockBytes else 2 * a.blockBytes
    (padBytes a msg lf).drop ((padBytes a msg lf).length - n) = (tailBytes a t lf).toList.take n ∧
    (tailBytes a t lf).toList.drop n = List.replicate (256 - n) 0

/-- R134: the number of blocks of a message. -/
def Obligations.BlockCountOfAMessage : Prop :=
  ∀ (a : Alg) (msg : List Byte) (lf : Nat),
    let full := msg.length / a.blockBytes
    let rem := msg.length % a.blockBytes
    (blocksOf a (padBytes a msg lf)).length
      = (if rem ≤ a.blockBytes - a.lenBytes - 1 then full + 1 else full + 2) ∧
    (blocksOf a (padBytes a msg lf)).length = (msg.length + a.lenBytes) / a.blockBytes + 1

/-- R148: the blocks delivered total N·B bits with N ≥ 1 and N·B ≥ 8·nbytes + 8 + L > message length + 1 + L. -/
def Obligations.PaddingIsLongEnough : Prop :=
  ∀ (a : Alg) (msg : List Byte) (lf nbits : Nat), messageBytes nbits = msg.length →
    let N := (blocksOf a (padBytes a msg lf)).length
    1 ≤ N ∧ 8 * msg.length + 8 + a.lenBits ≤ N * (8 * a.blockBytes) ∧
      nbits + 1 + a.lenBits < 8 * msg.length + 8 + a.lenBits

/-! ### Registers -/

/-- R33, R35, R301: the fields of STATUS as the host reads it, and the codes of ALG, SRC, PS and ERR. -/
def Obligations.StatusFieldsAreWhereTheHostReadsThem : Prop :=
  ∀ s : State,
    (readReg s 0x008).extractLsb 1 0 = s.alg.code ∧
    (readReg s 0x008).getLsbD 2 = s.cfg ∧
    (readReg s 0x008).extractLsb 4 3 = s.src.code ∧
    (readReg s 0x008).extractLsb 7 5 = s.ps.code ∧
    (readReg s 0x008).getLsbD 8 = s.exh ∧
    (readReg s 0x008).getLsbD 9 = s.bv ∧
    (readReg s 0x008).getLsbD 10 = s.busy ∧
    (readReg s 0x008).getLsbD 11 = s.sopen ∧
    (readReg s 0x008).extractLsb 15 12 = s.err.code ∧
    (readReg s 0x008).extractLsb 63 16 = 0 ∧
    (Alg.sha256.code = 0 ∧ Alg.sha512.code = 1 ∧ Alg.sha384.code = 2) ∧
    (Src.none.code = 0 ∧ Src.buffer.code = 1 ∧ Src.stream.code = 2) ∧
    (PaddingStatus.unpadded.code = 0 ∧ PaddingStatus.paddedSingleBlock.code = 1 ∧
      PaddingStatus.paddedDoubleBlock.code = 2 ∧ PaddingStatus.doubleBlockFirstHalfEmitted.code = 3 ∧
      PaddingStatus.allPaddingEmitted.code = 4) ∧
    (ErrCode.none.code = 0 ∧ ErrCode.illegal.code = 1 ∧ ErrCode.seq.code = 2 ∧ ErrCode.openFail.code = 3 ∧
      ErrCode.io.code = 4 ∧ ErrCode.bus.code = 5 ∧ ErrCode.length.code = 6 ∧ ErrCode.invariant.code = 7 ∧
      ErrCode.resource.code = 8)

/-- R31, R32 (b), (f): a host read gives the register at its offset, CMD and the reserved offsets 0, and has no effect on
the CORE. That every offset from 0x100 on reads 0, also beyond the platform's window, is the model's choice (log entry 8);
so are the turns, the samples and rdata (log entries 1, 6 and 7). -/
def Obligations.HostReadGivesTheRegister : Prop :=
  (∀ (s : State) (off : Nat) (later : List Turn), ¬ resetAsserted s → s.awaiting = false → off % 8 = 0 →
    s.agenda = .read 64 off :: later →
    step s = .next { s with rst := s.rst.tail, agenda := later, rdata := readReg s off }) ∧
  (∀ s : State,
    readReg s 0x000 = 0 ∧
    readReg s 0x010 = zext64 s.errcmd ∧
    readReg s 0x018 = s.addr ∧ readReg s 0x020 = s.nbits ∧
    readReg s 0x028 = s.len.extractLsb 63 0 ∧ readReg s 0x030 = s.len.extractLsb 127 64 ∧
    readReg s 0x038 = s.blkcnt ∧
    (∀ i, (hi : i < 8) → readReg s (0x040 + 8 * i) = s.h[i]) ∧
    (∀ j, (hj : j < 16) → readReg s (0x080 + 8 * j) = s.m[j]) ∧
    (∀ off, 0x100 ≤ off → readReg s off = 0))

/-- R32 (c), (e), (f), (h): a host write to ADDR, NBITS, H[i] or M[j] stores all 64 bits and changes no other register; a
write to a read-only register or a reserved offset is ignored; whatever ERR holds. That a write at every offset from 0x100
on is ignored, also beyond the platform's window, is the model's choice (log entry 8); so are the turns and the samples
(log entries 1 and 6). -/
def Obligations.HostWriteStoresTheRegister : Prop :=
  ∀ (s : State) (off : Nat) (v : BitVec 64) (later : List Turn),
    ¬ resetAsserted s → s.busy = false → s.awaiting = false → off % 8 = 0 → off ≠ 0x000 →
    s.agenda = .write 64 off v :: later →
    let s0 : State := { s with rst := s.rst.tail, agenda := later }
    (off = 0x018 → step s = .next { s0 with addr := v }) ∧
    (off = 0x020 → step s = .next { s0 with nbits := v }) ∧
    (∀ i, (hi : i < 8) → off = 0x040 + 8 * i → step s = .next { s0 with h := s0.h.set i v }) ∧
    (∀ j, (hj : j < 16) → off = 0x080 + 8 * j → step s = .next { s0 with m := s0.m.set j v }) ∧
    (off = 0x008 ∨ off = 0x010 ∨ off = 0x028 ∨ off = 0x030 ∨ off = 0x038 ∨ 0x100 ≤ off → step s = .next s0)

/-- R32 (a), I2: a host access that is not an aligned 64-bit one is refused, and nothing else is: a step that is not a
next state is such an access. -/
def Obligations.OnlyBadAccessesAreRefused : Prop :=
  (∀ (s : State) (width off : Nat) (later : List Turn), ¬ resetAsserted s → s.awaiting = false →
    (width ≠ 64 ∨ off % 8 ≠ 0) → s.agenda = .read width off :: later → step s = .refused (.badAccess width off)) ∧
  (∀ (s : State) (width off : Nat) (v : BitVec 64) (later : List Turn),
    ¬ resetAsserted s → s.busy = false → s.awaiting = false →
    (width ≠ 64 ∨ off % 8 ≠ 0) → s.agenda = .write width off v :: later →
    step s = .refused (.badAccess width off)) ∧
  (∀ s : State, (∃ t, step s = .next t) ∨ ∃ width off, (width ≠ 64 ∨ off % 8 ≠ 0) ∧
    step s = .refused (.badAccess width off) ∧ ∃ turn later, s.agenda = turn :: later ∧
      (turn = .read width off ∨ ∃ v, turn = .write width off v))

/-- R34: ALG is written only by INIT, and CFG is cleared only by reset and set only by INIT. -/
def Obligations.AlgAndCfgHaveOneWriter : Prop :=
  ∀ s t : State, step s = .next t →
    (t.alg ≠ s.alg → resetAsserted s ∨ issuesInit s) ∧
    (s.cfg = true → t.cfg = false → resetAsserted s) ∧
    (s.cfg = false → t.cfg = true → issuesInit s)

/-- R44, R45, R70: no command and no RunStep writes ADDR, NBITS or host memory, or takes a turn of the host. -/
def Obligations.CommandsKeepOperandsAndMemory : Prop :=
  (∀ (i : Instr) (s t : State), exec i s = .next t →
    t.addr = s.addr ∧ t.nbits = s.nbits ∧ (∀ a, t.mem.read a = s.mem.read a) ∧
    t.agenda = s.agenda ∧ t.rst = s.rst ∧ t.rdata = s.rdata) ∧
  (∀ s : State, (runStep s).addr = s.addr ∧ (runStep s).nbits = s.nbits ∧
    (∀ a, (runStep s).mem.read a = s.mem.read a) ∧
    (runStep s).agenda = s.agenda ∧ (runStep s).rst = s.rst ∧ (runStep s).rdata = s.rdata)

/-- The frames of the padder's commands (R136, R138, R139 to R143): what each leaves when it raises no error. -/
def Obligations.PadderCommandsFrame : Prop :=
  ∀ s t : State, s.err = .none → t.err = .none →
    (exec .openBuf s = .next t →
      t.alg = s.alg ∧ t.cfg = s.cfg ∧ t.busy = s.busy ∧ t.sopen = s.sopen ∧ t.errcmd = s.errcmd ∧ t.addr = s.addr ∧
      t.nbits = s.nbits ∧ t.h = s.h ∧ t.m = s.m ∧ t.provider = s.provider ∧ t.awaiting = s.awaiting ∧
      ∀ a, t.mem.read a = s.mem.read a) ∧
    (exec .openStream s = .next t →
      t.alg = s.alg ∧ t.cfg = s.cfg ∧ t.busy = s.busy ∧ t.errcmd = s.errcmd ∧ t.addr = s.addr ∧ t.nbits = s.nbits ∧
      t.h = s.h ∧ t.m = s.m ∧ t.tail = s.tail ∧ t.bufpos = s.bufpos ∧ t.fullrem = s.fullrem ∧
      t.provider.reads = s.provider.reads ∧ t.provider.closed = s.provider.closed ∧ t.awaiting = s.awaiting ∧
      ∀ a, t.mem.read a = s.mem.read a) ∧
    (exec .next s = .next t →
      t.alg = s.alg ∧ t.cfg = s.cfg ∧ t.src = s.src ∧ t.busy = s.busy ∧ t.errcmd = s.errcmd ∧ t.addr = s.addr ∧
      t.nbits = s.nbits ∧ t.h = s.h ∧ t.tail = s.tail ∧
      (s.src = .buffer → t.len = s.len ∧ t.sopen = s.sopen ∧ t.provider = s.provider) ∧
      (s.src = .stream → t.bufpos = s.bufpos ∧ t.fullrem = s.fullrem) ∧
      (s.ps ≠ .allPaddingEmitted → t.exh = s.exh) ∧
      (s.ps = .allPaddingEmitted → t = { s with exh := true, bv := false }) ∧
      ∀ a, t.mem.read a = s.mem.read a)

/-- The frames of the control commands (R271 to R274): what each leaves when it raises no error. -/
def Obligations.ControlCommandsFrame : Prop :=
  ∀ s t : State, s.err = .none → t.err = .none →
    (exec .nop s = .next t → t = s) ∧
    (exec .initSha256 s = .next t ∨ exec .initSha512 s = .next t ∨ exec .initSha384 s = .next t →
      t.m = s.m ∧ t.addr = s.addr ∧ t.nbits = s.nbits ∧ t.busy = s.busy ∧ t.provider.opens = s.provider.opens ∧
      t.provider.reads = s.provider.reads ∧ t.provider.opened = s.provider.opened ∧ t.awaiting = s.awaiting ∧
      ∀ a, t.mem.read a = s.mem.read a) ∧
    (exec .compress s = .next t →
      t.alg = s.alg ∧ t.cfg = s.cfg ∧ t.src = s.src ∧ t.ps = s.ps ∧ t.exh = s.exh ∧ t.busy = s.busy ∧
      t.sopen = s.sopen ∧ t.errcmd = s.errcmd ∧ t.addr = s.addr ∧ t.nbits = s.nbits ∧ t.len = s.len ∧
      t.blkcnt = s.blkcnt ∧ t.m = s.m ∧ t.tail = s.tail ∧ t.bufpos = s.bufpos ∧ t.fullrem = s.fullrem ∧
      t.provider = s.provider ∧ t.awaiting = s.awaiting ∧ ∀ a, t.mem.read a = s.mem.read a) ∧
    (exec .run s = .next t →
      t.alg = s.alg ∧ t.cfg = s.cfg ∧ t.src = s.src ∧ t.ps = s.ps ∧ t.exh = s.exh ∧ t.bv = s.bv ∧
      t.sopen = s.sopen ∧ t.errcmd = s.errcmd ∧ t.addr = s.addr ∧ t.nbits = s.nbits ∧ t.len = s.len ∧
      t.blkcnt = s.blkcnt ∧ t.h = s.h ∧ t.m = s.m ∧ t.tail = s.tail ∧ t.bufpos = s.bufpos ∧ t.fullrem = s.fullrem ∧
      t.provider = s.provider ∧ t.awaiting = s.awaiting ∧ ∀ a, t.mem.read a = s.mem.read a)

/-- R347 (a): a host write to ADDR or NBITS has no effect on an open source: NEXT, COMPRESS, RUN and a RunStep do the same
to every other register whatever ADDR and NBITS hold. -/
def Obligations.OpenSourceIgnoresAddrAndNbits : Prop :=
  ∀ (s : State) (addr nbits : Reg),
    (∀ i : Instr, i = .next ∨ i = .compress ∨ i = .run → ∀ t, exec i s = .next t →
      exec i { s with addr := addr, nbits := nbits } = .next { t with addr := addr, nbits := nbits }) ∧
    runStep { s with addr := addr, nbits := nbits } = { runStep s with addr := addr, nbits := nbits }

/-! ### Host memory -/

/-- R71, R75: MemRead answers the n bytes, byte i from addr + i, unless the memory signals an error for any of them; a
marked byte is the free value of its number, every other byte the memory's; n = 0 answers the empty string. Which addresses
answer, the marks and the numbers are the model's (log entries 2 and 3). -/
def Obligations.MemReadAnswersTheBytes : Prop :=
  ∀ (mem : Memory) (dirty : List Nat) (k addr n : Nat),
    (∀ bytes, memRead mem dirty k addr n = some bytes ↔
      bytes.length = n ∧ ∀ i, (hi : i < bytes.length) → ∃ b, mem.read (addr + i) = some b ∧
        bytes[i] = if addr + i ∈ dirty then Config.freeByte (k + i) else b) ∧
    (memRead mem dirty k addr n = none ↔ ∃ i, i < n ∧ mem.read (addr + i) = none) ∧
    memRead mem dirty k addr 0 = some []

/-- R75, I1: a byte of the open buffer that the host stores to before it is read is marked, whatever is marked already, and
keeps its mark while other blocks are read; and a NEXT that reads a block delivers each marked byte of it as a free byte and
every other byte as memory holds it. The free byte is Config.freeByte, of which nothing is known; the marks and the counter
are the model's (log entry 3). -/
def Obligations.StoredBufferBytesAreFree : Prop :=
  (∀ (s : State) (a : BitVec 64) (b : Byte), s.src = .buffer →
    s.bufpos.toNat ≤ a.toNat → a.toNat < s.bufpos.toNat + s.fullrem.toNat * s.alg.blockBytes → s.mem.wf = true →
    (∀ x, x ∈ (hostMemory a (some b) s).dirty ↔ x = a.toNat ∨ x ∈ s.dirty) ∧
    (hostMemory a (some b) s).mem.read a.toNat = some b ∧
    ∀ x, x ≠ a.toNat → (hostMemory a (some b) s).mem.read x = s.mem.read x) ∧
  (∀ s : State, s.err = .none → s.cfg = true → s.src = .buffer → s.ps = .paddedSingleBlock ∨ s.ps = .paddedDoubleBlock →
    s.fullrem ≠ 0 → (∀ i, i < s.alg.blockBytes → (s.mem.read (s.bufpos.toNat + i)).isSome = true) →
    ∃ (block : List Byte) (t : State), block.length = s.alg.blockBytes ∧
      exec .next s = .next t ∧ t.m = normalize s.alg block ∧ t.dirty = s.dirty ∧
      t.draws = s.draws + s.alg.blockBytes ∧
      ∀ i, (hi : i < block.length) →
        (s.bufpos.toNat + i ∈ s.dirty → block[i] = Config.freeByte (s.draws + i)) ∧
        (s.bufpos.toNat + i ∉ s.dirty → s.mem.read (s.bufpos.toNat + i) = some block[i]))

/-- The model's host memory (log entry 2): a change at one address is read there and nowhere else, and keeps the canonical
form. -/
def Obligations.HostMemoryReadAfterChange : Prop :=
  ∀ (mem : Memory) (a : Nat) (v : Option Byte), mem.wf = true → a < 2 ^ 64 →
    (mem.set a v).wf = true ∧ (mem.set a v).read a = v ∧ ∀ a', a' ≠ a → (mem.set a v).read a' = mem.read a'
end

