-- ==== Sys2Proof/Laws/State.lean ====
section
/-! SUPPORT. The fields of State after each named update: what it writes and what it leaves (one lemma per field, for simp). -/

namespace Sys2Proof.Machine

/-! ### closeStream -/

@[simp] theorem closeStream_alg (s : State) : (closeStream s).alg = s.alg := by unfold closeStream; split <;> simp_all
@[simp] theorem closeStream_cfg (s : State) : (closeStream s).cfg = s.cfg := by unfold closeStream; split <;> simp_all
@[simp] theorem closeStream_src (s : State) : (closeStream s).src = s.src := by unfold closeStream; split <;> simp_all
@[simp] theorem closeStream_ps (s : State) : (closeStream s).ps = s.ps := by unfold closeStream; split <;> simp_all
@[simp] theorem closeStream_exh (s : State) : (closeStream s).exh = s.exh := by unfold closeStream; split <;> simp_all
@[simp] theorem closeStream_bv (s : State) : (closeStream s).bv = s.bv := by unfold closeStream; split <;> simp_all
@[simp] theorem closeStream_busy (s : State) : (closeStream s).busy = s.busy := by unfold closeStream; split <;> simp_all
@[simp] theorem closeStream_sopen (s : State) : (closeStream s).sopen = false := by unfold closeStream; split <;> simp_all
@[simp] theorem closeStream_err (s : State) : (closeStream s).err = s.err := by unfold closeStream; split <;> simp_all
@[simp] theorem closeStream_errcmd (s : State) : (closeStream s).errcmd = s.errcmd := by unfold closeStream; split <;> simp_all
@[simp] theorem closeStream_addr (s : State) : (closeStream s).addr = s.addr := by unfold closeStream; split <;> simp_all
@[simp] theorem closeStream_nbits (s : State) : (closeStream s).nbits = s.nbits := by unfold closeStream; split <;> simp_all
@[simp] theorem closeStream_len (s : State) : (closeStream s).len = s.len := by unfold closeStream; split <;> simp_all
@[simp] theorem closeStream_blkcnt (s : State) : (closeStream s).blkcnt = s.blkcnt := by unfold closeStream; split <;> simp_all
@[simp] theorem closeStream_h (s : State) : (closeStream s).h = s.h := by unfold closeStream; split <;> simp_all
@[simp] theorem closeStream_m (s : State) : (closeStream s).m = s.m := by unfold closeStream; split <;> simp_all
@[simp] theorem closeStream_tail (s : State) : (closeStream s).tail = s.tail := by unfold closeStream; split <;> simp_all
@[simp] theorem closeStream_bufpos (s : State) : (closeStream s).bufpos = s.bufpos := by unfold closeStream; split <;> simp_all
@[simp] theorem closeStream_fullrem (s : State) : (closeStream s).fullrem = s.fullrem := by unfold closeStream; split <;> simp_all
@[simp] theorem closeStream_mem (s : State) : (closeStream s).mem = s.mem := by unfold closeStream; split <;> simp_all
@[simp] theorem closeStream_dirty (s : State) : (closeStream s).dirty = s.dirty := by unfold closeStream; split <;> simp_all
@[simp] theorem closeStream_draws (s : State) : (closeStream s).draws = s.draws := by unfold closeStream; split <;> simp_all
@[simp] theorem closeStream_provider (s : State) : (closeStream s).provider = if s.sopen then s.provider.streamClose else s.provider := by unfold closeStream; split <;> simp_all
@[simp] theorem closeStream_awaiting (s : State) : (closeStream s).awaiting = s.awaiting := by unfold closeStream; split <;> simp_all
@[simp] theorem closeStream_agenda (s : State) : (closeStream s).agenda = s.agenda := by unfold closeStream; split <;> simp_all
@[simp] theorem closeStream_rst (s : State) : (closeStream s).rst = s.rst := by unfold closeStream; split <;> simp_all
@[simp] theorem closeStream_rdata (s : State) : (closeStream s).rdata = s.rdata := by unfold closeStream; split <;> simp_all

/-! ### dropSource -/

@[simp] theorem dropSource_alg (s : State) : (dropSource s).alg = s.alg := rfl
@[simp] theorem dropSource_cfg (s : State) : (dropSource s).cfg = s.cfg := rfl
@[simp] theorem dropSource_src (s : State) : (dropSource s).src = .none := rfl
@[simp] theorem dropSource_ps (s : State) : (dropSource s).ps = .unpadded := rfl
@[simp] theorem dropSource_exh (s : State) : (dropSource s).exh = false := rfl
@[simp] theorem dropSource_bv (s : State) : (dropSource s).bv = false := rfl
@[simp] theorem dropSource_busy (s : State) : (dropSource s).busy = s.busy := rfl
@[simp] theorem dropSource_sopen (s : State) : (dropSource s).sopen = s.sopen := rfl
@[simp] theorem dropSource_err (s : State) : (dropSource s).err = s.err := rfl
@[simp] theorem dropSource_errcmd (s : State) : (dropSource s).errcmd = s.errcmd := rfl
@[simp] theorem dropSource_addr (s : State) : (dropSource s).addr = s.addr := rfl
@[simp] theorem dropSource_nbits (s : State) : (dropSource s).nbits = s.nbits := rfl
@[simp] theorem dropSource_len (s : State) : (dropSource s).len = s.len := rfl
@[simp] theorem dropSource_blkcnt (s : State) : (dropSource s).blkcnt = s.blkcnt := rfl
@[simp] theorem dropSource_h (s : State) : (dropSource s).h = s.h := rfl
@[simp] theorem dropSource_m (s : State) : (dropSource s).m = s.m := rfl
@[simp] theorem dropSource_tail (s : State) : (dropSource s).tail = s.tail := rfl
@[simp] theorem dropSource_bufpos (s : State) : (dropSource s).bufpos = 0 := rfl
@[simp] theorem dropSource_fullrem (s : State) : (dropSource s).fullrem = 0 := rfl
@[simp] theorem dropSource_mem (s : State) : (dropSource s).mem = s.mem := rfl
@[simp] theorem dropSource_dirty (s : State) : (dropSource s).dirty = [] := rfl
@[simp] theorem dropSource_draws (s : State) : (dropSource s).draws = s.draws := rfl
@[simp] theorem dropSource_provider (s : State) : (dropSource s).provider = s.provider := rfl
@[simp] theorem dropSource_awaiting (s : State) : (dropSource s).awaiting = s.awaiting := rfl
@[simp] theorem dropSource_agenda (s : State) : (dropSource s).agenda = s.agenda := rfl
@[simp] theorem dropSource_rst (s : State) : (dropSource s).rst = s.rst := rfl
@[simp] theorem dropSource_rdata (s : State) : (dropSource s).rdata = s.rdata := rfl

/-! ### commandError -/

@[simp] theorem commandError_alg (c : ErrCode) (w : Word32) (s : State) : (commandError c w s).alg = s.alg := rfl
@[simp] theorem commandError_cfg (c : ErrCode) (w : Word32) (s : State) : (commandError c w s).cfg = s.cfg := rfl
@[simp] theorem commandError_src (c : ErrCode) (w : Word32) (s : State) : (commandError c w s).src = s.src := rfl
@[simp] theorem commandError_ps (c : ErrCode) (w : Word32) (s : State) : (commandError c w s).ps = s.ps := rfl
@[simp] theorem commandError_exh (c : ErrCode) (w : Word32) (s : State) : (commandError c w s).exh = s.exh := rfl
@[simp] theorem commandError_bv (c : ErrCode) (w : Word32) (s : State) : (commandError c w s).bv = s.bv := rfl
@[simp] theorem commandError_busy (c : ErrCode) (w : Word32) (s : State) : (commandError c w s).busy = s.busy := rfl
@[simp] theorem commandError_sopen (c : ErrCode) (w : Word32) (s : State) : (commandError c w s).sopen = s.sopen := rfl
@[simp] theorem commandError_err (c : ErrCode) (w : Word32) (s : State) : (commandError c w s).err = c := rfl
@[simp] theorem commandError_errcmd (c : ErrCode) (w : Word32) (s : State) : (commandError c w s).errcmd = w := rfl
@[simp] theorem commandError_addr (c : ErrCode) (w : Word32) (s : State) : (commandError c w s).addr = s.addr := rfl
@[simp] theorem commandError_nbits (c : ErrCode) (w : Word32) (s : State) : (commandError c w s).nbits = s.nbits := rfl
@[simp] theorem commandError_len (c : ErrCode) (w : Word32) (s : State) : (commandError c w s).len = s.len := rfl
@[simp] theorem commandError_blkcnt (c : ErrCode) (w : Word32) (s : State) : (commandError c w s).blkcnt = s.blkcnt := rfl
@[simp] theorem commandError_h (c : ErrCode) (w : Word32) (s : State) : (commandError c w s).h = s.h := rfl
@[simp] theorem commandError_m (c : ErrCode) (w : Word32) (s : State) : (commandError c w s).m = s.m := rfl
@[simp] theorem commandError_tail (c : ErrCode) (w : Word32) (s : State) : (commandError c w s).tail = s.tail := rfl
@[simp] theorem commandError_bufpos (c : ErrCode) (w : Word32) (s : State) : (commandError c w s).bufpos = s.bufpos := rfl
@[simp] theorem commandError_fullrem (c : ErrCode) (w : Word32) (s : State) : (commandError c w s).fullrem = s.fullrem := rfl
@[simp] theorem commandError_mem (c : ErrCode) (w : Word32) (s : State) : (commandError c w s).mem = s.mem := rfl
@[simp] theorem commandError_dirty (c : ErrCode) (w : Word32) (s : State) : (commandError c w s).dirty = s.dirty := rfl
@[simp] theorem commandError_draws (c : ErrCode) (w : Word32) (s : State) : (commandError c w s).draws = s.draws := rfl
@[simp] theorem commandError_provider (c : ErrCode) (w : Word32) (s : State) : (commandError c w s).provider = s.provider := rfl
@[simp] theorem commandError_awaiting (c : ErrCode) (w : Word32) (s : State) : (commandError c w s).awaiting = s.awaiting := rfl
@[simp] theorem commandError_agenda (c : ErrCode) (w : Word32) (s : State) : (commandError c w s).agenda = s.agenda := rfl
@[simp] theorem commandError_rst (c : ErrCode) (w : Word32) (s : State) : (commandError c w s).rst = s.rst := rfl
@[simp] theorem commandError_rdata (c : ErrCode) (w : Word32) (s : State) : (commandError c w s).rdata = s.rdata := rfl

/-! ### sourceError -/

@[simp] theorem sourceError_alg (c : ErrCode) (w : Word32) (s : State) : (sourceError c w s).alg = s.alg := by simp [sourceError]
@[simp] theorem sourceError_cfg (c : ErrCode) (w : Word32) (s : State) : (sourceError c w s).cfg = s.cfg := by simp [sourceError]
@[simp] theorem sourceError_src (c : ErrCode) (w : Word32) (s : State) : (sourceError c w s).src = .none := by simp [sourceError]
@[simp] theorem sourceError_ps (c : ErrCode) (w : Word32) (s : State) : (sourceError c w s).ps = .unpadded := by simp [sourceError]
@[simp] theorem sourceError_exh (c : ErrCode) (w : Word32) (s : State) : (sourceError c w s).exh = false := by simp [sourceError]
@[simp] theorem sourceError_bv (c : ErrCode) (w : Word32) (s : State) : (sourceError c w s).bv = false := by simp [sourceError]
@[simp] theorem sourceError_busy (c : ErrCode) (w : Word32) (s : State) : (sourceError c w s).busy = false := by simp [sourceError]
@[simp] theorem sourceError_sopen (c : ErrCode) (w : Word32) (s : State) : (sourceError c w s).sopen = false := by simp [sourceError]
@[simp] theorem sourceError_err (c : ErrCode) (w : Word32) (s : State) : (sourceError c w s).err = c := by simp [sourceError]
@[simp] theorem sourceError_errcmd (c : ErrCode) (w : Word32) (s : State) : (sourceError c w s).errcmd = w := by simp [sourceError]
@[simp] theorem sourceError_addr (c : ErrCode) (w : Word32) (s : State) : (sourceError c w s).addr = s.addr := by simp [sourceError]
@[simp] theorem sourceError_nbits (c : ErrCode) (w : Word32) (s : State) : (sourceError c w s).nbits = s.nbits := by simp [sourceError]
@[simp] theorem sourceError_len (c : ErrCode) (w : Word32) (s : State) : (sourceError c w s).len = s.len := by simp [sourceError]
@[simp] theorem sourceError_blkcnt (c : ErrCode) (w : Word32) (s : State) : (sourceError c w s).blkcnt = s.blkcnt := by simp [sourceError]
@[simp] theorem sourceError_h (c : ErrCode) (w : Word32) (s : State) : (sourceError c w s).h = nullDigest := by simp [sourceError]
@[simp] theorem sourceError_m (c : ErrCode) (w : Word32) (s : State) : (sourceError c w s).m = s.m := by simp [sourceError]
@[simp] theorem sourceError_tail (c : ErrCode) (w : Word32) (s : State) : (sourceError c w s).tail = s.tail := by simp [sourceError]
@[simp] theorem sourceError_bufpos (c : ErrCode) (w : Word32) (s : State) : (sourceError c w s).bufpos = 0 := by simp [sourceError]
@[simp] theorem sourceError_fullrem (c : ErrCode) (w : Word32) (s : State) : (sourceError c w s).fullrem = 0 := by simp [sourceError]
@[simp] theorem sourceError_mem (c : ErrCode) (w : Word32) (s : State) : (sourceError c w s).mem = s.mem := by simp [sourceError]
@[simp] theorem sourceError_dirty (c : ErrCode) (w : Word32) (s : State) : (sourceError c w s).dirty = [] := by simp [sourceError]
@[simp] theorem sourceError_draws (c : ErrCode) (w : Word32) (s : State) : (sourceError c w s).draws = s.draws := by simp [sourceError]
@[simp] theorem sourceError_provider (c : ErrCode) (w : Word32) (s : State) : (sourceError c w s).provider = if s.sopen then s.provider.streamClose else s.provider := by simp [sourceError]
@[simp] theorem sourceError_awaiting (c : ErrCode) (w : Word32) (s : State) : (sourceError c w s).awaiting = s.awaiting := by simp [sourceError]
@[simp] theorem sourceError_agenda (c : ErrCode) (w : Word32) (s : State) : (sourceError c w s).agenda = s.agenda := by simp [sourceError]
@[simp] theorem sourceError_rst (c : ErrCode) (w : Word32) (s : State) : (sourceError c w s).rst = s.rst := by simp [sourceError]
@[simp] theorem sourceError_rdata (c : ErrCode) (w : Word32) (s : State) : (sourceError c w s).rdata = s.rdata := by simp [sourceError]

/-! ### initialise -/

@[simp] theorem initialise_alg (a : Alg) (s : State) : (initialise a s).alg = a := by simp [initialise, clearError]
@[simp] theorem initialise_cfg (a : Alg) (s : State) : (initialise a s).cfg = true := by simp [initialise, clearError]
@[simp] theorem initialise_src (a : Alg) (s : State) : (initialise a s).src = .none := by simp [initialise, clearError]
@[simp] theorem initialise_ps (a : Alg) (s : State) : (initialise a s).ps = .unpadded := by simp [initialise, clearError]
@[simp] theorem initialise_exh (a : Alg) (s : State) : (initialise a s).exh = false := by simp [initialise, clearError]
@[simp] theorem initialise_bv (a : Alg) (s : State) : (initialise a s).bv = false := by simp [initialise, clearError]
@[simp] theorem initialise_busy (a : Alg) (s : State) : (initialise a s).busy = s.busy := by simp [initialise, clearError]
@[simp] theorem initialise_sopen (a : Alg) (s : State) : (initialise a s).sopen = false := by simp [initialise, clearError]
@[simp] theorem initialise_err (a : Alg) (s : State) : (initialise a s).err = .none := by simp [initialise, clearError]
@[simp] theorem initialise_errcmd (a : Alg) (s : State) : (initialise a s).errcmd = 0 := by simp [initialise, clearError]
@[simp] theorem initialise_addr (a : Alg) (s : State) : (initialise a s).addr = s.addr := by simp [initialise, clearError]
@[simp] theorem initialise_nbits (a : Alg) (s : State) : (initialise a s).nbits = s.nbits := by simp [initialise, clearError]
@[simp] theorem initialise_len (a : Alg) (s : State) : (initialise a s).len = 0 := by simp [initialise, clearError]
@[simp] theorem initialise_blkcnt (a : Alg) (s : State) : (initialise a s).blkcnt = 0 := by simp [initialise, clearError]
@[simp] theorem initialise_h (a : Alg) (s : State) : (initialise a s).h = initVector a := by simp [initialise, clearError]
@[simp] theorem initialise_m (a : Alg) (s : State) : (initialise a s).m = s.m := by simp [initialise, clearError]
@[simp] theorem initialise_tail (a : Alg) (s : State) : (initialise a s).tail = Vector.replicate 256 0 := by simp [initialise, clearError]
@[simp] theorem initialise_bufpos (a : Alg) (s : State) : (initialise a s).bufpos = 0 := by simp [initialise, clearError]
@[simp] theorem initialise_fullrem (a : Alg) (s : State) : (initialise a s).fullrem = 0 := by simp [initialise, clearError]
@[simp] theorem initialise_mem (a : Alg) (s : State) : (initialise a s).mem = s.mem := by simp [initialise, clearError]
@[simp] theorem initialise_dirty (a : Alg) (s : State) : (initialise a s).dirty = [] := by simp [initialise, clearError]
@[simp] theorem initialise_draws (a : Alg) (s : State) : (initialise a s).draws = s.draws := by simp [initialise, clearError]
@[simp] theorem initialise_provider (a : Alg) (s : State) : (initialise a s).provider = if s.sopen then s.provider.streamClose else s.provider := by simp [initialise, clearError]
@[simp] theorem initialise_awaiting (a : Alg) (s : State) : (initialise a s).awaiting = s.awaiting := by simp [initialise, clearError]
@[simp] theorem initialise_agenda (a : Alg) (s : State) : (initialise a s).agenda = s.agenda := by simp [initialise, clearError]
@[simp] theorem initialise_rst (a : Alg) (s : State) : (initialise a s).rst = s.rst := by simp [initialise, clearError]
@[simp] theorem initialise_rdata (a : Alg) (s : State) : (initialise a s).rdata = s.rdata := by simp [initialise, clearError]

/-! ### deliver -/

@[simp] theorem deliver_alg (b : List Byte) (s : State) : (deliver b s).alg = s.alg := rfl
@[simp] theorem deliver_cfg (b : List Byte) (s : State) : (deliver b s).cfg = s.cfg := rfl
@[simp] theorem deliver_src (b : List Byte) (s : State) : (deliver b s).src = s.src := rfl
@[simp] theorem deliver_ps (b : List Byte) (s : State) : (deliver b s).ps = s.ps := rfl
@[simp] theorem deliver_exh (b : List Byte) (s : State) : (deliver b s).exh = s.exh := rfl
@[simp] theorem deliver_bv (b : List Byte) (s : State) : (deliver b s).bv = true := rfl
@[simp] theorem deliver_busy (b : List Byte) (s : State) : (deliver b s).busy = s.busy := rfl
@[simp] theorem deliver_sopen (b : List Byte) (s : State) : (deliver b s).sopen = s.sopen := rfl
@[simp] theorem deliver_err (b : List Byte) (s : State) : (deliver b s).err = s.err := rfl
@[simp] theorem deliver_errcmd (b : List Byte) (s : State) : (deliver b s).errcmd = s.errcmd := rfl
@[simp] theorem deliver_addr (b : List Byte) (s : State) : (deliver b s).addr = s.addr := rfl
@[simp] theorem deliver_nbits (b : List Byte) (s : State) : (deliver b s).nbits = s.nbits := rfl
@[simp] theorem deliver_len (b : List Byte) (s : State) : (deliver b s).len = s.len := rfl
@[simp] theorem deliver_blkcnt (b : List Byte) (s : State) : (deliver b s).blkcnt = s.blkcnt + 1 := rfl
@[simp] theorem deliver_h (b : List Byte) (s : State) : (deliver b s).h = s.h := rfl
@[simp] theorem deliver_m (b : List Byte) (s : State) : (deliver b s).m = normalize s.alg b := rfl
@[simp] theorem deliver_tail (b : List Byte) (s : State) : (deliver b s).tail = s.tail := rfl
@[simp] theorem deliver_bufpos (b : List Byte) (s : State) : (deliver b s).bufpos = s.bufpos := rfl
@[simp] theorem deliver_fullrem (b : List Byte) (s : State) : (deliver b s).fullrem = s.fullrem := rfl
@[simp] theorem deliver_mem (b : List Byte) (s : State) : (deliver b s).mem = s.mem := rfl
@[simp] theorem deliver_dirty (b : List Byte) (s : State) : (deliver b s).dirty = s.dirty := rfl
@[simp] theorem deliver_draws (b : List Byte) (s : State) : (deliver b s).draws = s.draws := rfl
@[simp] theorem deliver_provider (b : List Byte) (s : State) : (deliver b s).provider = s.provider := rfl
@[simp] theorem deliver_awaiting (b : List Byte) (s : State) : (deliver b s).awaiting = s.awaiting := rfl
@[simp] theorem deliver_agenda (b : List Byte) (s : State) : (deliver b s).agenda = s.agenda := rfl
@[simp] theorem deliver_rst (b : List Byte) (s : State) : (deliver b s).rst = s.rst := rfl
@[simp] theorem deliver_rdata (b : List Byte) (s : State) : (deliver b s).rdata = s.rdata := rfl

/-! ### exhausted -/

@[simp] theorem exhausted_alg (s : State) : (exhausted s).alg = s.alg := rfl
@[simp] theorem exhausted_cfg (s : State) : (exhausted s).cfg = s.cfg := rfl
@[simp] theorem exhausted_src (s : State) : (exhausted s).src = s.src := rfl
@[simp] theorem exhausted_ps (s : State) : (exhausted s).ps = s.ps := rfl
@[simp] theorem exhausted_exh (s : State) : (exhausted s).exh = true := rfl
@[simp] theorem exhausted_bv (s : State) : (exhausted s).bv = false := rfl
@[simp] theorem exhausted_busy (s : State) : (exhausted s).busy = s.busy := rfl
@[simp] theorem exhausted_sopen (s : State) : (exhausted s).sopen = s.sopen := rfl
@[simp] theorem exhausted_err (s : State) : (exhausted s).err = s.err := rfl
@[simp] theorem exhausted_errcmd (s : State) : (exhausted s).errcmd = s.errcmd := rfl
@[simp] theorem exhausted_addr (s : State) : (exhausted s).addr = s.addr := rfl
@[simp] theorem exhausted_nbits (s : State) : (exhausted s).nbits = s.nbits := rfl
@[simp] theorem exhausted_len (s : State) : (exhausted s).len = s.len := rfl
@[simp] theorem exhausted_blkcnt (s : State) : (exhausted s).blkcnt = s.blkcnt := rfl
@[simp] theorem exhausted_h (s : State) : (exhausted s).h = s.h := rfl
@[simp] theorem exhausted_m (s : State) : (exhausted s).m = s.m := rfl
@[simp] theorem exhausted_tail (s : State) : (exhausted s).tail = s.tail := rfl
@[simp] theorem exhausted_bufpos (s : State) : (exhausted s).bufpos = s.bufpos := rfl
@[simp] theorem exhausted_fullrem (s : State) : (exhausted s).fullrem = s.fullrem := rfl
@[simp] theorem exhausted_mem (s : State) : (exhausted s).mem = s.mem := rfl
@[simp] theorem exhausted_dirty (s : State) : (exhausted s).dirty = s.dirty := rfl
@[simp] theorem exhausted_draws (s : State) : (exhausted s).draws = s.draws := rfl
@[simp] theorem exhausted_provider (s : State) : (exhausted s).provider = s.provider := rfl
@[simp] theorem exhausted_awaiting (s : State) : (exhausted s).awaiting = s.awaiting := rfl
@[simp] theorem exhausted_agenda (s : State) : (exhausted s).agenda = s.agenda := rfl
@[simp] theorem exhausted_rst (s : State) : (exhausted s).rst = s.rst := rfl
@[simp] theorem exhausted_rdata (s : State) : (exhausted s).rdata = s.rdata := rfl

/-! ### compressBlock -/

@[simp] theorem compressBlock_alg (s : State) : (compressBlock s).alg = s.alg := rfl
@[simp] theorem compressBlock_cfg (s : State) : (compressBlock s).cfg = s.cfg := rfl
@[simp] theorem compressBlock_src (s : State) : (compressBlock s).src = s.src := rfl
@[simp] theorem compressBlock_ps (s : State) : (compressBlock s).ps = s.ps := rfl
@[simp] theorem compressBlock_exh (s : State) : (compressBlock s).exh = s.exh := rfl
@[simp] theorem compressBlock_bv (s : State) : (compressBlock s).bv = false := rfl
@[simp] theorem compressBlock_busy (s : State) : (compressBlock s).busy = s.busy := rfl
@[simp] theorem compressBlock_sopen (s : State) : (compressBlock s).sopen = s.sopen := rfl
@[simp] theorem compressBlock_err (s : State) : (compressBlock s).err = s.err := rfl
@[simp] theorem compressBlock_errcmd (s : State) : (compressBlock s).errcmd = s.errcmd := rfl
@[simp] theorem compressBlock_addr (s : State) : (compressBlock s).addr = s.addr := rfl
@[simp] theorem compressBlock_nbits (s : State) : (compressBlock s).nbits = s.nbits := rfl
@[simp] theorem compressBlock_len (s : State) : (compressBlock s).len = s.len := rfl
@[simp] theorem compressBlock_blkcnt (s : State) : (compressBlock s).blkcnt = s.blkcnt := rfl
@[simp] theorem compressBlock_h (s : State) : (compressBlock s).h = foldBlock s.alg s.h s.m := rfl
@[simp] theorem compressBlock_m (s : State) : (compressBlock s).m = s.m := rfl
@[simp] theorem compressBlock_tail (s : State) : (compressBlock s).tail = s.tail := rfl
@[simp] theorem compressBlock_bufpos (s : State) : (compressBlock s).bufpos = s.bufpos := rfl
@[simp] theorem compressBlock_fullrem (s : State) : (compressBlock s).fullrem = s.fullrem := rfl
@[simp] theorem compressBlock_mem (s : State) : (compressBlock s).mem = s.mem := rfl
@[simp] theorem compressBlock_dirty (s : State) : (compressBlock s).dirty = s.dirty := rfl
@[simp] theorem compressBlock_draws (s : State) : (compressBlock s).draws = s.draws := rfl
@[simp] theorem compressBlock_provider (s : State) : (compressBlock s).provider = s.provider := rfl
@[simp] theorem compressBlock_awaiting (s : State) : (compressBlock s).awaiting = s.awaiting := rfl
@[simp] theorem compressBlock_agenda (s : State) : (compressBlock s).agenda = s.agenda := rfl
@[simp] theorem compressBlock_rst (s : State) : (compressBlock s).rst = s.rst := rfl
@[simp] theorem compressBlock_rdata (s : State) : (compressBlock s).rdata = s.rdata := rfl

/-! ### openedBuffer -/

@[simp] theorem openedBuffer_alg (t : List Byte) (lf full : Nat) (s : State) : (openedBuffer t lf full s).alg = s.alg := rfl
@[simp] theorem openedBuffer_cfg (t : List Byte) (lf full : Nat) (s : State) : (openedBuffer t lf full s).cfg = s.cfg := rfl
@[simp] theorem openedBuffer_src (t : List Byte) (lf full : Nat) (s : State) : (openedBuffer t lf full s).src = .buffer := rfl
@[simp] theorem openedBuffer_ps (t : List Byte) (lf full : Nat) (s : State) : (openedBuffer t lf full s).ps = if fitsOneBlock s.alg t.length then .paddedSingleBlock else .paddedDoubleBlock := rfl
@[simp] theorem openedBuffer_exh (t : List Byte) (lf full : Nat) (s : State) : (openedBuffer t lf full s).exh = false := rfl
@[simp] theorem openedBuffer_bv (t : List Byte) (lf full : Nat) (s : State) : (openedBuffer t lf full s).bv = false := rfl
@[simp] theorem openedBuffer_busy (t : List Byte) (lf full : Nat) (s : State) : (openedBuffer t lf full s).busy = s.busy := rfl
@[simp] theorem openedBuffer_sopen (t : List Byte) (lf full : Nat) (s : State) : (openedBuffer t lf full s).sopen = s.sopen := rfl
@[simp] theorem openedBuffer_err (t : List Byte) (lf full : Nat) (s : State) : (openedBuffer t lf full s).err = s.err := rfl
@[simp] theorem openedBuffer_errcmd (t : List Byte) (lf full : Nat) (s : State) : (openedBuffer t lf full s).errcmd = s.errcmd := rfl
@[simp] theorem openedBuffer_addr (t : List Byte) (lf full : Nat) (s : State) : (openedBuffer t lf full s).addr = s.addr := rfl
@[simp] theorem openedBuffer_nbits (t : List Byte) (lf full : Nat) (s : State) : (openedBuffer t lf full s).nbits = s.nbits := rfl
@[simp] theorem openedBuffer_len (t : List Byte) (lf full : Nat) (s : State) : (openedBuffer t lf full s).len = BitVec.ofNat 128 lf := rfl
@[simp] theorem openedBuffer_blkcnt (t : List Byte) (lf full : Nat) (s : State) : (openedBuffer t lf full s).blkcnt = 0 := rfl
@[simp] theorem openedBuffer_h (t : List Byte) (lf full : Nat) (s : State) : (openedBuffer t lf full s).h = s.h := rfl
@[simp] theorem openedBuffer_m (t : List Byte) (lf full : Nat) (s : State) : (openedBuffer t lf full s).m = s.m := rfl
@[simp] theorem openedBuffer_tail (t : List Byte) (lf full : Nat) (s : State) : (openedBuffer t lf full s).tail = tailBytes s.alg t lf := rfl
@[simp] theorem openedBuffer_bufpos (t : List Byte) (lf full : Nat) (s : State) : (openedBuffer t lf full s).bufpos = s.addr := rfl
@[simp] theorem openedBuffer_fullrem (t : List Byte) (lf full : Nat) (s : State) : (openedBuffer t lf full s).fullrem = BitVec.ofNat 64 full := rfl
@[simp] theorem openedBuffer_mem (t : List Byte) (lf full : Nat) (s : State) : (openedBuffer t lf full s).mem = s.mem := rfl
@[simp] theorem openedBuffer_dirty (t : List Byte) (lf full : Nat) (s : State) : (openedBuffer t lf full s).dirty = [] := rfl
@[simp] theorem openedBuffer_draws (t : List Byte) (lf full : Nat) (s : State) : (openedBuffer t lf full s).draws = s.draws := rfl
@[simp] theorem openedBuffer_provider (t : List Byte) (lf full : Nat) (s : State) : (openedBuffer t lf full s).provider = s.provider := rfl
@[simp] theorem openedBuffer_awaiting (t : List Byte) (lf full : Nat) (s : State) : (openedBuffer t lf full s).awaiting = s.awaiting := rfl
@[simp] theorem openedBuffer_agenda (t : List Byte) (lf full : Nat) (s : State) : (openedBuffer t lf full s).agenda = s.agenda := rfl
@[simp] theorem openedBuffer_rst (t : List Byte) (lf full : Nat) (s : State) : (openedBuffer t lf full s).rst = s.rst := rfl
@[simp] theorem openedBuffer_rdata (t : List Byte) (lf full : Nat) (s : State) : (openedBuffer t lf full s).rdata = s.rdata := rfl

/-! ### hostMemory -/

@[simp] theorem hostMemory_alg (a : BitVec 64) (v : Option Byte) (s : State) : (hostMemory a v s).alg = s.alg := rfl
@[simp] theorem hostMemory_cfg (a : BitVec 64) (v : Option Byte) (s : State) : (hostMemory a v s).cfg = s.cfg := rfl
@[simp] theorem hostMemory_src (a : BitVec 64) (v : Option Byte) (s : State) : (hostMemory a v s).src = s.src := rfl
@[simp] theorem hostMemory_ps (a : BitVec 64) (v : Option Byte) (s : State) : (hostMemory a v s).ps = s.ps := rfl
@[simp] theorem hostMemory_exh (a : BitVec 64) (v : Option Byte) (s : State) : (hostMemory a v s).exh = s.exh := rfl
@[simp] theorem hostMemory_bv (a : BitVec 64) (v : Option Byte) (s : State) : (hostMemory a v s).bv = s.bv := rfl
@[simp] theorem hostMemory_busy (a : BitVec 64) (v : Option Byte) (s : State) : (hostMemory a v s).busy = s.busy := rfl
@[simp] theorem hostMemory_sopen (a : BitVec 64) (v : Option Byte) (s : State) : (hostMemory a v s).sopen = s.sopen := rfl
@[simp] theorem hostMemory_err (a : BitVec 64) (v : Option Byte) (s : State) : (hostMemory a v s).err = s.err := rfl
@[simp] theorem hostMemory_errcmd (a : BitVec 64) (v : Option Byte) (s : State) : (hostMemory a v s).errcmd = s.errcmd := rfl
@[simp] theorem hostMemory_addr (a : BitVec 64) (v : Option Byte) (s : State) : (hostMemory a v s).addr = s.addr := rfl
@[simp] theorem hostMemory_nbits (a : BitVec 64) (v : Option Byte) (s : State) : (hostMemory a v s).nbits = s.nbits := rfl
@[simp] theorem hostMemory_len (a : BitVec 64) (v : Option Byte) (s : State) : (hostMemory a v s).len = s.len := rfl
@[simp] theorem hostMemory_blkcnt (a : BitVec 64) (v : Option Byte) (s : State) : (hostMemory a v s).blkcnt = s.blkcnt := rfl
@[simp] theorem hostMemory_h (a : BitVec 64) (v : Option Byte) (s : State) : (hostMemory a v s).h = s.h := rfl
@[simp] theorem hostMemory_m (a : BitVec 64) (v : Option Byte) (s : State) : (hostMemory a v s).m = s.m := rfl
@[simp] theorem hostMemory_tail (a : BitVec 64) (v : Option Byte) (s : State) : (hostMemory a v s).tail = s.tail := rfl
@[simp] theorem hostMemory_bufpos (a : BitVec 64) (v : Option Byte) (s : State) : (hostMemory a v s).bufpos = s.bufpos := rfl
@[simp] theorem hostMemory_fullrem (a : BitVec 64) (v : Option Byte) (s : State) : (hostMemory a v s).fullrem = s.fullrem := rfl
@[simp] theorem hostMemory_mem (a : BitVec 64) (v : Option Byte) (s : State) : (hostMemory a v s).mem = s.mem.set a.toNat v := rfl
@[simp] theorem hostMemory_draws (a : BitVec 64) (v : Option Byte) (s : State) : (hostMemory a v s).draws = s.draws := rfl
@[simp] theorem hostMemory_provider (a : BitVec 64) (v : Option Byte) (s : State) : (hostMemory a v s).provider = s.provider := rfl
@[simp] theorem hostMemory_awaiting (a : BitVec 64) (v : Option Byte) (s : State) : (hostMemory a v s).awaiting = s.awaiting := rfl
@[simp] theorem hostMemory_agenda (a : BitVec 64) (v : Option Byte) (s : State) : (hostMemory a v s).agenda = s.agenda := rfl
@[simp] theorem hostMemory_rst (a : BitVec 64) (v : Option Byte) (s : State) : (hostMemory a v s).rst = s.rst := rfl
@[simp] theorem hostMemory_rdata (a : BitVec 64) (v : Option Byte) (s : State) : (hostMemory a v s).rdata = s.rdata := rfl

/-! ### writeReg -/

@[simp] theorem writeReg_alg (off : Nat) (v : BitVec 64) (s : State) : (writeReg off v s).alg = s.alg := by unfold writeReg; split_ifs <;> rfl
@[simp] theorem writeReg_cfg (off : Nat) (v : BitVec 64) (s : State) : (writeReg off v s).cfg = s.cfg := by unfold writeReg; split_ifs <;> rfl
@[simp] theorem writeReg_src (off : Nat) (v : BitVec 64) (s : State) : (writeReg off v s).src = s.src := by unfold writeReg; split_ifs <;> rfl
@[simp] theorem writeReg_ps (off : Nat) (v : BitVec 64) (s : State) : (writeReg off v s).ps = s.ps := by unfold writeReg; split_ifs <;> rfl
@[simp] theorem writeReg_exh (off : Nat) (v : BitVec 64) (s : State) : (writeReg off v s).exh = s.exh := by unfold writeReg; split_ifs <;> rfl
@[simp] theorem writeReg_bv (off : Nat) (v : BitVec 64) (s : State) : (writeReg off v s).bv = s.bv := by unfold writeReg; split_ifs <;> rfl
@[simp] theorem writeReg_busy (off : Nat) (v : BitVec 64) (s : State) : (writeReg off v s).busy = s.busy := by unfold writeReg; split_ifs <;> rfl
@[simp] theorem writeReg_sopen (off : Nat) (v : BitVec 64) (s : State) : (writeReg off v s).sopen = s.sopen := by unfold writeReg; split_ifs <;> rfl
@[simp] theorem writeReg_err (off : Nat) (v : BitVec 64) (s : State) : (writeReg off v s).err = s.err := by unfold writeReg; split_ifs <;> rfl
@[simp] theorem writeReg_errcmd (off : Nat) (v : BitVec 64) (s : State) : (writeReg off v s).errcmd = s.errcmd := by unfold writeReg; split_ifs <;> rfl
@[simp] theorem writeReg_len (off : Nat) (v : BitVec 64) (s : State) : (writeReg off v s).len = s.len := by unfold writeReg; split_ifs <;> rfl
@[simp] theorem writeReg_blkcnt (off : Nat) (v : BitVec 64) (s : State) : (writeReg off v s).blkcnt = s.blkcnt := by unfold writeReg; split_ifs <;> rfl
@[simp] theorem writeReg_tail (off : Nat) (v : BitVec 64) (s : State) : (writeReg off v s).tail = s.tail := by unfold writeReg; split_ifs <;> rfl
@[simp] theorem writeReg_bufpos (off : Nat) (v : BitVec 64) (s : State) : (writeReg off v s).bufpos = s.bufpos := by unfold writeReg; split_ifs <;> rfl
@[simp] theorem writeReg_fullrem (off : Nat) (v : BitVec 64) (s : State) : (writeReg off v s).fullrem = s.fullrem := by unfold writeReg; split_ifs <;> rfl
@[simp] theorem writeReg_mem (off : Nat) (v : BitVec 64) (s : State) : (writeReg off v s).mem = s.mem := by unfold writeReg; split_ifs <;> rfl
@[simp] theorem writeReg_dirty (off : Nat) (v : BitVec 64) (s : State) : (writeReg off v s).dirty = s.dirty := by unfold writeReg; split_ifs <;> rfl
@[simp] theorem writeReg_draws (off : Nat) (v : BitVec 64) (s : State) : (writeReg off v s).draws = s.draws := by unfold writeReg; split_ifs <;> rfl
@[simp] theorem writeReg_provider (off : Nat) (v : BitVec 64) (s : State) : (writeReg off v s).provider = s.provider := by unfold writeReg; split_ifs <;> rfl
@[simp] theorem writeReg_awaiting (off : Nat) (v : BitVec 64) (s : State) : (writeReg off v s).awaiting = s.awaiting := by unfold writeReg; split_ifs <;> rfl
@[simp] theorem writeReg_agenda (off : Nat) (v : BitVec 64) (s : State) : (writeReg off v s).agenda = s.agenda := by unfold writeReg; split_ifs <;> rfl
@[simp] theorem writeReg_rst (off : Nat) (v : BitVec 64) (s : State) : (writeReg off v s).rst = s.rst := by unfold writeReg; split_ifs <;> rfl
@[simp] theorem writeReg_rdata (off : Nat) (v : BitVec 64) (s : State) : (writeReg off v s).rdata = s.rdata := by unfold writeReg; split_ifs <;> rfl

/-! ### raise -/

@[simp] theorem raiseError_seq (w : Word32) (s : State) : raiseError .seq w s = commandError .seq w s := rfl
@[simp] theorem raiseError_illegal (w : Word32) (s : State) : raiseError .illegal w s = commandError .illegal w s := rfl
@[simp] theorem raiseError_openFail (w : Word32) (s : State) : raiseError .openFail w s = sourceError .openFail w s := rfl
@[simp] theorem raiseError_io (w : Word32) (s : State) : raiseError .io w s = sourceError .io w s := rfl
@[simp] theorem raiseError_bus (w : Word32) (s : State) : raiseError .bus w s = sourceError .bus w s := rfl
@[simp] theorem raiseError_length (w : Word32) (s : State) : raiseError .length w s = sourceError .length w s := rfl
@[simp] theorem raiseError_invariant (w : Word32) (s : State) : raiseError .invariant w s = sourceError .invariant w s := rfl

@[simp] theorem unlessError_ok {s : State} (h : s.err = .none) (t : State) : unlessError s t = t := by
  simp [unlessError, h]
@[simp] theorem unlessError_sticky {s : State} (h : s.err ≠ .none) (t : State) : unlessError s t = s := by
  simp [unlessError, h]

end Sys2Proof.Machine
end

