-- ==== Sys2Proof/Laws/Memory.lean ====
section
/-! SUPPORT. Host memory: every operation keeps the canonical form, reading after a change, and what a MemRead answers (R70 to R75). -/

namespace Sys2Proof.Machine

theorem Memory.risingFrom_mono {n n' : Nat} (hn : n' ≤ n) {mem : Memory} (h : mem.risingFrom n = true) :
    mem.risingFrom n' = true := by
  cases mem with
  | nil => rfl
  | cons c t =>
    obtain ⟨k, b⟩ := c
    simp only [Memory.risingFrom, Bool.and_eq_true, decide_eq_true_eq] at h ⊢
    exact ⟨⟨by omega, h.1.2⟩, h.2⟩

/-- No listed address lies below the bound. -/
theorem Memory.read_below {mem : Memory} : ∀ {n a : Nat}, mem.risingFrom n = true → a < n → mem.read a = none := by
  induction mem with
  | nil => intros; rfl
  | cons c t ih =>
    obtain ⟨k, b⟩ := c
    intro n a h ha
    simp only [Memory.risingFrom, Bool.and_eq_true, decide_eq_true_eq] at h
    have hk : k ≠ a := by omega
    simp only [Memory.read, if_neg hk]
    exact ih h.2 (by omega)

theorem Memory.insert_risingFrom {mem : Memory} {a : Nat} {b : Byte} (ha : a < 2 ^ 64) :
    ∀ {n : Nat}, n ≤ a → mem.risingFrom n = true → (mem.insert a b).risingFrom n = true := by
  induction mem with
  | nil =>
    intro n hn _
    simp only [Memory.insert, Memory.risingFrom, Bool.and_eq_true, decide_eq_true_eq, and_true]
    exact ⟨hn, ha⟩
  | cons c t ih =>
    obtain ⟨k, c⟩ := c
    intro n hn h
    simp only [Memory.risingFrom, Bool.and_eq_true, decide_eq_true_eq] at h
    simp only [Memory.insert]
    split_ifs with h1 h2
    · simp only [Memory.risingFrom, Bool.and_eq_true, decide_eq_true_eq]
      exact ⟨⟨hn, ha⟩, ⟨by omega, h.1.2⟩, h.2⟩
    · simp only [Memory.risingFrom, Bool.and_eq_true, decide_eq_true_eq]
      exact ⟨⟨hn, ha⟩, h2 ▸ h.2⟩
    · simp only [Memory.risingFrom, Bool.and_eq_true, decide_eq_true_eq]
      exact ⟨h.1, ih (by omega) h.2⟩

theorem Memory.erase_risingFrom {mem : Memory} {a : Nat} :
    ∀ {n : Nat}, mem.risingFrom n = true → (mem.erase a).risingFrom n = true := by
  induction mem with
  | nil => intros; rfl
  | cons c t ih =>
    obtain ⟨k, c⟩ := c
    intro n h
    simp only [Memory.risingFrom, Bool.and_eq_true, decide_eq_true_eq] at h
    simp only [Memory.erase]
    split_ifs with h1
    · exact Memory.risingFrom_mono (by omega) h.2
    · simp only [Memory.risingFrom, Bool.and_eq_true, decide_eq_true_eq]
      exact ⟨h.1, ih h.2⟩

/-- Every change of host memory keeps the canonical form. -/
theorem Memory.set_wf {mem : Memory} {a : Nat} (ha : a < 2 ^ 64) (v : Option Byte) (h : mem.wf = true) :
    (mem.set a v).wf = true := by
  cases v with
  | none => exact Memory.erase_risingFrom h
  | some b => exact Memory.insert_risingFrom ha (Nat.zero_le a) h

theorem Memory.read_insert {mem : Memory} {a a' : Nat} {b : Byte} :
    (mem.insert a b).read a' = if a' = a then some b else mem.read a' := by
  induction mem with
  | nil => simp [Memory.insert, Memory.read, eq_comm]
  | cons c t ih =>
    obtain ⟨k, c⟩ := c
    simp only [Memory.insert]
    split_ifs <;> simp_all [Memory.read] <;> grind

theorem Memory.read_erase {mem : Memory} : ∀ {n a a' : Nat}, mem.risingFrom n = true →
    (mem.erase a).read a' = if a' = a then none else mem.read a' := by
  induction mem with
  | nil => intros; simp [Memory.erase, Memory.read]
  | cons c t ih =>
    obtain ⟨k, c⟩ := c
    intro n a a' h
    simp only [Memory.risingFrom, Bool.and_eq_true, decide_eq_true_eq] at h
    simp only [Memory.erase]
    split_ifs with h1 h2 h3
    · subst h1 h2; exact Memory.read_below h.2 (by omega)
    · subst h1; simp only [Memory.read]; rw [if_neg (fun e => h2 e.symm)]
    · subst h3; simp only [Memory.read, if_neg h1]; rw [ih h.2, if_pos rfl]
    · simp only [Memory.read]; rw [ih h.2, if_neg h3]

/-- Reading after a change at one address. -/
theorem Memory.read_set {mem : Memory} (h : mem.wf = true) (a a' : Nat) (v : Option Byte) :
    (mem.set a v).read a' = if a' = a then v else mem.read a' := by
  cases v with
  | none => exact Memory.read_erase h
  | some b => exact Memory.read_insert

/-! ### MemRead -/

/-- Everything a MemRead can answer: n bytes, byte i being what the bus gives at address a + i. -/
theorem memRead_eq_some {mem : Memory} {dirty : List Nat} : ∀ {n k a : Nat} {bs : List Byte},
    memRead mem dirty k a n = some bs ↔
      bs.length = n ∧ ∀ i, (hi : i < bs.length) → busByte mem dirty (k + i) (a + i) = some bs[i] := by
  intro n
  induction n with
  | zero =>
    intro k a bs
    simp only [memRead, Option.some.injEq]
    constructor
    · rintro rfl; simp
    · rintro ⟨h, _⟩; exact (List.length_eq_zero_iff.mp h).symm
  | succ n ih =>
    intro k a bs
    simp only [memRead]
    constructor
    · intro h
      split at h
      · rename_i b bs' hb hbs
        obtain ⟨hl, hr⟩ := ih.mp hbs
        cases h
        refine ⟨by simp [hl], ?_⟩
        intro i hi
        cases i with
        | zero => simpa using hb
        | succ i =>
          have := hr i (by simpa using hi)
          rw [show k + (i + 1) = k + 1 + i by omega, show a + (i + 1) = a + 1 + i by omega]
          simpa using this
      · cases h
    · rintro ⟨hl, hr⟩
      cases bs with
      | nil => simp at hl
      | cons b bs =>
        have h0 := hr 0 (by simp)
        have ht : memRead mem dirty (k + 1) (a + 1) n = some bs := by
          refine ih.mpr ⟨by simpa using hl, ?_⟩
          intro i hi
          have := hr (i + 1) (by simpa using hi)
          rw [show k + 1 + i = k + (i + 1) by omega, show a + 1 + i = a + (i + 1) by omega]
          simpa using this
        simp only [Nat.add_zero, List.getElem_cons_zero] at h0
        rw [h0, ht]

theorem memRead_length {mem : Memory} {dirty : List Nat} {n k a : Nat} {bs : List Byte}
    (h : memRead mem dirty k a n = some bs) : bs.length = n :=
  (memRead_eq_some.mp h).1

/-- A MemRead answers unless the memory signals an error for one of its bytes. -/
theorem memRead_isSome {mem : Memory} {dirty : List Nat} : ∀ {n k a : Nat},
    (memRead mem dirty k a n).isSome = true ↔ ∀ i, i < n → (mem.read (a + i)).isSome = true := by
  intro n
  induction n with
  | zero => simp [memRead]
  | succ n ih =>
    intro k a
    have hstep : (memRead mem dirty k a (n + 1)).isSome = true ↔
        (mem.read a).isSome = true ∧ (memRead mem dirty (k + 1) (a + 1) n).isSome = true := by
      simp only [memRead, busByte]
      cases mem.read a <;> cases memRead mem dirty (k + 1) (a + 1) n <;> simp
    rw [hstep, ih]
    constructor
    · rintro ⟨h0, h⟩ i hi
      cases i with
      | zero => exact h0
      | succ i => rw [show a + (i + 1) = a + 1 + i by omega]; exact h i (by omega)
    · intro h
      refine ⟨by simpa using h 0 (by omega), fun i hi => ?_⟩
      rw [show a + 1 + i = a + (i + 1) by omega]; exact h (i + 1) (by omega)

end Sys2Proof.Machine
end

