-- ==== Sys2Proof/Laws/Provider.lean ====
section
/-! SUPPORT. What the stream provider answers and keeps (R76 to R79). -/

namespace Sys2Proof.Machine

/-- Everything a StreamRead can do: it touches the listed answers only, and bytes come at most n at a time. -/
theorem Provider.streamRead_cases (n : Nat) (p : Provider) :
    ∃ listed, (p.streamRead n).2 = { p with reads.listed := listed } ∧
      ((p.streamRead n).1 = .later ∨ (p.streamRead n).1 = .ioerr ∨
        ∃ bs, (p.streamRead n).1 = .data bs ∧ bs.length ≤ n) := by
  unfold Provider.streamRead
  split
  · split
    · exact ⟨p.reads.listed, rfl, .inr (.inr ⟨_, rfl, by simp⟩)⟩
    · exact ⟨p.reads.listed, rfl, .inl rfl⟩
    · exact ⟨p.reads.listed, rfl, .inr (.inl rfl)⟩
  · exact ⟨_, rfl, .inr (.inr ⟨_, rfl, by simp⟩)⟩
  · exact ⟨_, rfl, .inl rfl⟩
  · exact ⟨_, rfl, .inr (.inl rfl)⟩

theorem Provider.streamRead_length {n : Nat} {p : Provider} {bs : List Byte} (h : (p.streamRead n).1 = .data bs) :
    bs.length ≤ n := by
  obtain ⟨_, _, h1 | h1 | ⟨bs', h1, hl⟩⟩ := Provider.streamRead_cases n p
  · rw [h1] at h; cases h
  · rw [h1] at h; cases h
  · rw [h1] at h; cases h; exact hl

@[simp] theorem Provider.streamRead_opened (n : Nat) (p : Provider) : (p.streamRead n).2.opened = p.opened := by
  obtain ⟨l, h, _⟩ := Provider.streamRead_cases n p; rw [h]

@[simp] theorem Provider.streamRead_closed (n : Nat) (p : Provider) : (p.streamRead n).2.closed = p.closed := by
  obtain ⟨l, h, _⟩ := Provider.streamRead_cases n p; rw [h]

@[simp] theorem Provider.streamRead_opens (n : Nat) (p : Provider) : (p.streamRead n).2.opens = p.opens := by
  obtain ⟨l, h, _⟩ := Provider.streamRead_cases n p; rw [h]

@[simp] theorem Provider.streamRead_rest (n : Nat) (p : Provider) : (p.streamRead n).2.reads.rest = p.reads.rest := by
  obtain ⟨l, h, _⟩ := Provider.streamRead_cases n p; rw [h]

@[simp] theorem Provider.streamOpen_opened (p : Provider) :
    p.streamOpen.2.opened = if p.streamOpen.1 then p.opened + 1 else p.opened := rfl

@[simp] theorem Provider.streamOpen_closed (p : Provider) : p.streamOpen.2.closed = p.closed := rfl

@[simp] theorem Provider.streamOpen_reads (p : Provider) : p.streamOpen.2.reads = p.reads := rfl

@[simp] theorem Provider.streamClose_opened (p : Provider) : p.streamClose.opened = p.opened := rfl

@[simp] theorem Provider.streamClose_closed (p : Provider) : p.streamClose.closed = p.closed + 1 := rfl

@[simp] theorem Provider.streamClose_opens (p : Provider) : p.streamClose.opens = p.opens := rfl

@[simp] theorem Provider.streamClose_reads (p : Provider) : p.streamClose.reads = p.reads := rfl

end Sys2Proof.Machine
end

