-- ==== Sys2Proof/Laws/Step.lean ====
section
/-! SUPPORT. Everything a step, a command and a RunStep can do: one inversion lemma each, which proofs cite instead of unfolding them. -/

namespace Sys2Proof.Machine

/-- Every command answers a next state. -/
theorem exec_next (i : Instr) (s : State) : ∃ t, exec i s = .next t := by
  cases i <;> exact ⟨_, rfl⟩

/-- A step either is the reset step or one move of the engine or the host. -/
theorem step_cases {s t : State} (h : step s = .next t) :
    (∃ rest, s.rst = true :: rest ∧ t = resetStep { s with rst := rest }) ∨
      (s.rst.head? ≠ some true ∧ advance { s with rst := s.rst.tail } = .next t) := by
  unfold step at h
  split at h
  · rename_i rest hr; cases h; exact .inl ⟨rest, hr, rfl⟩
  · rename_i rest hr; exact .inr ⟨by simp [hr], by simpa [hr] using h⟩
  · rename_i hr
    refine .inr ⟨by simp [hr], ?_⟩
    have : ({ s with rst := s.rst.tail } : State) = s := by cases s; simp_all
    rw [this]; exact h

/-- A step without reset is one of these moves; in each, ag is the agenda after the turn. -/
theorem advance_cases {s t : State} (h : advance s = .next t) :
    ∃ ag, (s.busy = true ∧ t = runStep { s with agenda := ag }) ∨
      (s.busy = false ∧ s.awaiting = true ∧ ag = s.agenda ∧ exec .next { s with awaiting := false } = .next t) ∨
      (s.busy = false ∧ s.awaiting = false ∧ ∃ v, s.agenda = .write 64 0x000 v :: ag ∧
        issue v { s with agenda := ag } = .next t) ∨
      (s.busy = false ∧ s.awaiting = false ∧ ∃ off v, off ≠ 0x000 ∧ s.agenda = .write 64 off v :: ag ∧
        t = writeReg off v { s with agenda := ag }) ∨
      (∃ off, t = { s with agenda := ag, rdata := readReg { s with agenda := ag } off }) ∨
      (∃ a v, t = hostMemory a v { s with agenda := ag }) ∨
      (s.busy = false ∧ t = { s with agenda := ag }) := by
  unfold advance at h
  split at h
  · rename_i hb
    unfold busyTurn hostRead at h
    split at h
    · rename_i w off ag hag
      split_ifs at h
      cases h; exact ⟨ag, .inr (.inr (.inr (.inr (.inl ⟨off, rfl⟩))))⟩
    · rename_i a v ag hag; cases h; exact ⟨ag, .inr (.inr (.inr (.inr (.inr (.inl ⟨a, v, rfl⟩)))))⟩
    · rename_i ag hag; cases h; exact ⟨ag, .inl ⟨hb, rfl⟩⟩
    · cases h; exact ⟨s.agenda, .inl ⟨hb, rfl⟩⟩
    · cases h; exact ⟨s.agenda, .inl ⟨hb, rfl⟩⟩
  · rename_i hb
    have hb : s.busy = false := by simpa using hb
    split at h
    · rename_i ha; exact ⟨s.agenda, .inr (.inl ⟨hb, ha, rfl, h⟩)⟩
    · rename_i ha
      have ha : s.awaiting = false := by simpa using ha
      unfold hostTurn hostRead hostWrite at h
      split at h
      · cases h; exact ⟨s.agenda, .inr (.inr (.inr (.inr (.inr (.inr ⟨hb, rfl⟩)))))⟩
      · rename_i ag hag; cases h; exact ⟨ag, .inr (.inr (.inr (.inr (.inr (.inr ⟨hb, rfl⟩)))))⟩
      · rename_i w off ag hag
        split_ifs at h
        cases h; exact ⟨ag, .inr (.inr (.inr (.inr (.inl ⟨off, rfl⟩))))⟩
      · rename_i w off v ag hag
        split_ifs at h with hok h0
        · have hw : w = 64 := by simp only [accessOk, Bool.and_eq_true, beq_iff_eq] at hok; exact hok.1
          subst hw h0
          exact ⟨ag, .inr (.inr (.inl ⟨hb, ha, v, hag, h⟩))⟩
        · have hw : w = 64 := by simp only [accessOk, Bool.and_eq_true, beq_iff_eq] at hok; exact hok.1
          subst hw
          cases h; exact ⟨ag, .inr (.inr (.inr (.inl ⟨hb, ha, off, v, h0, hag, rfl⟩)))⟩
      · rename_i a v ag hag; cases h; exact ⟨ag, .inr (.inr (.inr (.inr (.inr (.inl ⟨a, v, rfl⟩)))))⟩

/-- Everything NEXT's pseudocode can do (R139 to R144), word being the command word of an error. -/
theorem nextBlock_cases (word : Word32) (s : State) :
    (invariantBroken s = true ∧ nextBlock word s = .failed (sourceError .invariant word s)) ∨
    (invariantBroken s = false ∧ s.ps = .allPaddingEmitted ∧ nextBlock word s = .done (exhausted s)) ∨
    (invariantBroken s = false ∧ s.ps ≠ .allPaddingEmitted ∧ s.src = .buffer ∧ s.fullrem ≠ 0 ∧
      memRead s.mem s.dirty s.draws s.bufpos.toNat s.alg.blockBytes = none ∧
      nextBlock word s = .failed (sourceError .bus word s)) ∨
    (invariantBroken s = false ∧ s.ps ≠ .allPaddingEmitted ∧ s.src = .buffer ∧ s.fullrem ≠ 0 ∧
      ∃ block, memRead s.mem s.dirty s.draws s.bufpos.toNat s.alg.blockBytes = some block ∧
      nextBlock word s = .done (deliver block
        { s with
          bufpos := s.bufpos + BitVec.ofNat 64 s.alg.blockBytes, fullrem := s.fullrem - 1,
          draws := s.draws + s.alg.blockBytes })) ∨
    (invariantBroken s = false ∧ s.src = .buffer ∧ s.fullrem = 0 ∧
      ((s.ps = .paddedSingleBlock ∧
          nextBlock word s = .done (deliver (tailBlock s.alg s.tail 0) { s with ps := .allPaddingEmitted })) ∨
        (s.ps = .paddedDoubleBlock ∧ nextBlock word s
          = .done (deliver (tailBlock s.alg s.tail 0) { s with ps := .doubleBlockFirstHalfEmitted })) ∨
        (s.ps = .doubleBlockFirstHalfEmitted ∧
          nextBlock word s = .done (deliver (tailBlock s.alg s.tail 1) { s with ps := .allPaddingEmitted })))) ∨
    (invariantBroken s = false ∧ s.src ≠ .buffer ∧ s.ps = .unpadded ∧ ∃ listed,
      (s.provider.streamRead s.alg.blockBytes).2 = { s.provider with reads.listed := listed } ∧
      (((s.provider.streamRead s.alg.blockBytes).1 = .later ∧
          nextBlock word s = .waiting { s with provider.reads.listed := listed }) ∨
        ((s.provider.streamRead s.alg.blockBytes).1 = .ioerr ∧
          nextBlock word s = .failed (sourceError .io word { s with provider.reads.listed := listed })) ∨
        (∃ bytes, (s.provider.streamRead s.alg.blockBytes).1 = .data bytes ∧ bytes.length ≤ s.alg.blockBytes ∧
          nextBlock word s = streamBytes word bytes { s with provider.reads.listed := listed }))) ∨
    (invariantBroken s = false ∧ s.src ≠ .buffer ∧ s.ps ≠ .unpadded ∧ s.ps ≠ .allPaddingEmitted ∧
      nextBlock word s
        = .done (deliver (streamLengthBlock s.alg s.len.toNat) { s with ps := .allPaddingEmitted })) := by
  cases hib : invariantBroken s with
  | true => left; simp [nextBlock, hib]
  | false =>
    right
    by_cases hps : s.ps = .allPaddingEmitted
    · left; simp [nextBlock, hib, hps]
    right
    by_cases hsrc : s.src = .buffer
    · by_cases hf : s.fullrem = 0
      · right; right; left
        refine ⟨rfl, hsrc, hf, ?_⟩
        have hu : s.ps ≠ .unpadded := by
          intro hu; simp [invariantBroken, hsrc, hu] at hib
        rcases hp : s.ps with _ | _ | _ | _ | _
        · exact absurd hp hu
        · left; simp [nextBlock, hib, hsrc, nextBuffer, hf, hp]
        · right; left; simp [nextBlock, hib, hsrc, nextBuffer, hf, hp]
        · right; right; simp [nextBlock, hib, hsrc, nextBuffer, hf, hp]
        · exact absurd hp hps
      · have hf' : ¬ s.fullrem = 0#64 := hf
        cases hm : memRead s.mem s.dirty s.draws s.bufpos.toNat s.alg.blockBytes with
        | none => left; exact ⟨rfl, hps, hsrc, hf, rfl, by simp [nextBlock, hib, hps, hsrc, nextBuffer, hf', hm]⟩
        | some block =>
          right; left
          exact ⟨rfl, hps, hsrc, hf, block, rfl, by simp [nextBlock, hib, hps, hsrc, nextBuffer, hf', hm]⟩
    · right; right; right
      by_cases hu : s.ps = .unpadded
      · left
        refine ⟨rfl, hsrc, hu, ?_⟩
        obtain ⟨l, hl, h1⟩ := Provider.streamRead_cases s.alg.blockBytes s.provider
        refine ⟨l, hl, ?_⟩
        rcases h1 with h1 | h1 | ⟨bs, h1, hlen⟩
        · left; exact ⟨h1, by simp [nextBlock, hib, hu, hsrc, nextStream, h1, hl]⟩
        · right; left; exact ⟨h1, by simp [nextBlock, hib, hu, hsrc, nextStream, h1, hl]⟩
        · right; right; exact ⟨bs, h1, hlen, by simp [nextBlock, hib, hu, hsrc, nextStream, h1, hl]⟩
      · right; exact ⟨rfl, hsrc, hu, hps, by simp [nextBlock, hib, hps, hsrc, nextStream, hu]⟩

/-- What NEXT does with the bytes of a StreamRead (R141, R145). -/
theorem streamBytes_cases (word : Word32) (bytes : List Byte) (s : State) :
    (2 ^ s.alg.lenBits ≤ s.len.toNat + 8 * bytes.length ∧
      streamBytes word bytes s = .failed (sourceError .length word s)) ∨
    (s.len.toNat + 8 * bytes.length < 2 ^ s.alg.lenBits ∧ bytes.length = s.alg.blockBytes ∧
      streamBytes word bytes s
        = .done (deliver bytes { s with len := s.len + BitVec.ofNat 128 (8 * bytes.length) })) ∨
    (s.len.toNat + 8 * bytes.length < 2 ^ s.alg.lenBits ∧ bytes.length ≠ s.alg.blockBytes ∧
      ∃ t, t = closeStream { s with len := s.len + BitVec.ofNat 128 (8 * bytes.length) } ∧
      streamBytes word bytes s = .done (deliver (streamFinalBlock s.alg bytes t.len.toNat)
        { t with
          ps := if fitsOneBlock s.alg bytes.length then .allPaddingEmitted else .doubleBlockFirstHalfEmitted })) := by
  by_cases h : 2 ^ s.alg.lenBits ≤ s.len.toNat + 8 * bytes.length
  · left; exact ⟨h, by simp [streamBytes, h]⟩
  · right
    by_cases hb : bytes.length = s.alg.blockBytes
    · left; exact ⟨by omega, hb, by rw [streamBytes, if_neg h, if_pos hb]⟩
    · right
      refine ⟨by omega, hb, _, rfl, ?_⟩
      rw [streamBytes, if_neg h, if_neg hb]
      simp

end Sys2Proof.Machine
end

