-- ==== Sys2Proof/Laws/Frame.lean ====
section
/-! SUPPORT. What the shared parts of the commands leave unchanged, and a step without reset as one move. -/

namespace Sys2Proof.Machine

/-- A step without reset is one move of the engine or the host, after the sample is used up (R340). -/
theorem step_of_not_reset {s : State} (h : ¬ resetAsserted s) : step s = advance { s with rst := s.rst.tail } := by
  unfold step
  unfold resetAsserted at h
  rcases hr : s.rst with _ | ⟨_ | _, rest⟩
  · cases s; simp_all
  · rfl
  · simp [hr] at h

/-- NEXT's pseudocode leaves ALG, CFG, ADDR, NBITS, TAIL, host memory and the host's side alone, however it ends. -/
theorem nextBlock_frame (word : Word32) (s : State) :
    (nextBlock word s).state.alg = s.alg ∧ (nextBlock word s).state.cfg = s.cfg ∧
      (nextBlock word s).state.addr = s.addr ∧ (nextBlock word s).state.nbits = s.nbits ∧
      (nextBlock word s).state.tail = s.tail ∧ (nextBlock word s).state.mem = s.mem ∧
      (nextBlock word s).state.agenda = s.agenda ∧ (nextBlock word s).state.rst = s.rst ∧
      (nextBlock word s).state.rdata = s.rdata := by
  rcases nextBlock_cases word s with h | h | h | h | h | h | h
  · simp [h, NextEnd.state]
  · simp [h, NextEnd.state]
  · simp [h, NextEnd.state]
  · obtain ⟨_, _, _, _, block, _, h⟩ := h
    simp [h, NextEnd.state]
  · obtain ⟨_, _, _, h | h | h⟩ := h <;> simp [h, NextEnd.state]
  · obtain ⟨_, _, _, listed, _, h | h | ⟨bytes, _, _, h⟩⟩ := h
    · simp [h, NextEnd.state]
    · simp [h, NextEnd.state]
    · rcases streamBytes_cases word bytes { s with provider.reads.listed := listed } with h2 | h2 | h2
      · simp [h, h2, NextEnd.state]
      · simp [h, h2, NextEnd.state]
      · obtain ⟨_, _, t, rfl, h2⟩ := h2
        simp [h, h2, NextEnd.state]
  · simp [h, NextEnd.state]

end Sys2Proof.Machine
end

