-- ==== Sys2Proof/Laws/Padding.lean ====
section
/-! SUPPORT. The padding functions (R130 to R137, R141, R142): sizes, the blocks of a padded message one by one, and the tail as its end. -/

namespace Sys2Proof.Machine

theorem Alg.blockBytes_pos (a : Alg) : 0 < a.blockBytes := by cases a <;> decide

theorem Alg.lenBytes_lt (a : Alg) : a.lenBytes + 1 < a.blockBytes := by cases a <;> decide

theorem Alg.blockBytes_le (a : Alg) : a.blockBytes ≤ 128 := by cases a <;> decide

@[simp] theorem zeros_length (n : Nat) : (zeros n).length = n := List.length_replicate

theorem zeros_add (m n : Nat) : zeros (m + n) = zeros m ++ zeros n :=
  List.replicate_add m n 0

@[simp] theorem beBytes_length (n v : Nat) : (beBytes n v).length = n := by
  induction n with
  | zero => rfl
  | succ n ih => simp [beBytes, ih]

/-- Byte i of BE_n(v) (R182). -/
theorem beBytes_getElem {n v i : Nat} (hi : i < (beBytes n v).length) :
    (beBytes n v)[i] = BitVec.ofNat 8 (v >>> (8 * (n - 1 - i))) := by
  induction n generalizing i with
  | zero => simp at hi
  | succ n ih =>
    cases i with
    | zero => simp [beBytes]
    | succ i =>
      have hi' : i < (beBytes n v).length := by simpa [beBytes] using hi
      simp only [beBytes, List.getElem_cons_succ, ih hi']
      rw [show n + 1 - 1 - (i + 1) = n - 1 - i by omega]

theorem fitsOneBlock_iff {a : Alg} {rem : Nat} : fitsOneBlock a rem = true ↔ rem + 1 + a.lenBytes ≤ a.blockBytes := by
  have := a.lenBytes_lt
  simp only [fitsOneBlock, decide_eq_true_eq]
  omega

/-- T is one block or two (R133, R137). -/
theorem tailBlocks_length {a : Alg} {t : List Byte} (ht : t.length < a.blockBytes) (lf : Nat) :
    (tailBlocks a t lf).length = if fitsOneBlock a t.length then a.blockBytes else 2 * a.blockBytes := by
  have := a.lenBytes_lt
  simp only [tailBlocks, List.length_append, List.length_cons, List.length_nil, zeros_length, beBytes_length]
  split
  · rename_i h; rw [fitsOneBlock_iff] at h; omega
  · omega

/-- PadBytes of a message with a full block in front: the block, then PadBytes of the rest (R132). -/
theorem padBytes_full {a : Alg} {msg : List Byte} (h : a.blockBytes ≤ msg.length) (lf : Nat) :
    padBytes a msg lf = msg.take a.blockBytes ++ padBytes a (msg.drop a.blockBytes) lf := by
  have hz : padZeros a (msg.drop a.blockBytes).length = padZeros a msg.length := by
    simp only [padZeros, List.length_drop]
    have : msg.length + 1 + a.lenBytes = (msg.length - a.blockBytes + 1 + a.lenBytes) + a.blockBytes := by omega
    rw [this, Nat.add_mod_right]
  simp only [padBytes, hz, ← List.append_assoc, List.take_append_drop]

/-- PadBytes of a message shorter than a block is its tail (R137). -/
theorem padBytes_short {a : Alg} {t : List Byte} (h : t.length < a.blockBytes) (lf : Nat) :
    padBytes a t lf = tailBlocks a t lf := by
  have := a.lenBytes_lt
  have hz : padZeros a t.length
      = (if fitsOneBlock a t.length then a.blockBytes else 2 * a.blockBytes) - t.length - 1 - a.lenBytes := by
    simp only [padZeros]
    split
    · rename_i hf
      rw [fitsOneBlock_iff] at hf
      rcases Nat.lt_or_ge (t.length + 1 + a.lenBytes) a.blockBytes with h1 | h1
      · rw [Nat.mod_eq_of_lt h1, Nat.mod_eq_of_lt (by omega)]; omega
      · have : t.length + 1 + a.lenBytes = a.blockBytes := by omega
        rw [this, Nat.mod_self, Nat.sub_zero, Nat.mod_self]; omega
    · rename_i hf
      rw [fitsOneBlock_iff] at hf
      have hm : (t.length + 1 + a.lenBytes) % a.blockBytes = t.length + 1 + a.lenBytes - a.blockBytes := by
        rw [Nat.mod_eq_sub_mod (by omega), Nat.mod_eq_of_lt (by omega)]
      rw [hm, Nat.mod_eq_of_lt (by omega)]
      omega
  simp only [padBytes, tailBlocks, hz]

/-- Cutting off the first block. -/
theorem blocksOf_append {a : Alg} {x y : List Byte} (hx : x.length = a.blockBytes) :
    blocksOf a (x ++ y) = x :: blocksOf a y := by
  have hpos := a.blockBytes_pos
  have hn : (x ++ y).length / a.blockBytes = y.length / a.blockBytes + 1 := by
    rw [List.length_append, hx, Nat.add_comm, Nat.add_div_right _ hpos]
  simp only [blocksOf, hn, List.range_succ_eq_map, List.map_cons, List.map_map, Nat.mul_zero, List.drop_zero]
  congr 1
  · rw [← hx, List.take_left']; rfl
  · apply List.map_congr_left
    intro q _
    simp only [Function.comp_apply]
    rw [show a.blockBytes * (q + 1) = x.length + a.blockBytes * q by rw [hx, Nat.mul_succ]; omega, ← List.drop_drop,
      List.drop_left]

theorem blocksOf_nil (a : Alg) : blocksOf a [] = [] := by simp [blocksOf]

theorem blocksOf_one {a : Alg} {x : List Byte} (hx : x.length = a.blockBytes) : blocksOf a x = [x] := by
  have := blocksOf_append (y := []) hx
  rwa [List.append_nil, blocksOf_nil] at this

/-- The block of a one-block tail, as TAIL holds it (R50, R137). -/
theorem tailBlock_zero {a : Alg} {t : List Byte} (h : t.length < a.blockBytes) (lf : Nat) :
    tailBlock a (tailBytes a t lf) 0 = (tailBlocks a t lf).take a.blockBytes := by
  have hl := tailBlocks_length h lf
  have hb := a.blockBytes_le
  have : a.blockBytes ≤ (tailBlocks a t lf).length := by rw [hl]; split <;> omega
  apply List.ext_getElem
  · simp [tailBlock]; omega
  · intro i h1 h2
    simp only [List.length_take] at h2
    have hi : i < (tailBlocks a t lf).length := by omega
    simp [tailBlock, tailBytes, List.getD_eq_getElem?_getD, List.getElem?_eq_getElem hi]

/-- The second block of a two-block tail, as TAIL holds it (R50, R137). -/
theorem tailBlock_one {a : Alg} {t : List Byte} (h : t.length < a.blockBytes) (hf : fitsOneBlock a t.length = false)
    (lf : Nat) : tailBlock a (tailBytes a t lf) 1 = (tailBlocks a t lf).drop a.blockBytes := by
  have hl := tailBlocks_length h lf
  rw [hf] at hl
  simp only [Bool.false_eq_true, if_false] at hl
  have hb := a.blockBytes_le
  apply List.ext_getElem
  · simp [tailBlock]; omega
  · intro i h1 h2
    simp only [List.length_drop] at h2
    have hi : a.blockBytes + i < (tailBlocks a t lf).length := by omega
    simp [tailBlock, tailBytes, List.getD_eq_getElem?_getD, List.getElem?_eq_getElem hi]

/-- Both tail blocks are whole blocks of TAIL (R50). -/
theorem tailBlock_length (a : Alg) (tail : Vector Byte 256) {q : Nat} (hq : q < 2) :
    (tailBlock a tail q).length = a.blockBytes := by
  have hb := a.blockBytes_le
  have : a.blockBytes * q ≤ a.blockBytes * 1 := Nat.mul_le_mul_left _ (by omega)
  simp only [tailBlock, List.length_take, List.length_drop, Vector.length_toList]
  omega

/-- The tail storage of R7: each of its two blocks has 128 bytes, the first BB of which are the tail block. -/
theorem tailStorage_spec (a : Alg) (tail : Vector Byte 256) {q : Nat} (hq : q < 2) :
    (tailStorage a tail q).length = 128 ∧ (tailStorage a tail q).take a.blockBytes = tailBlock a tail q := by
  have hl := tailBlock_length a tail hq
  have hb := a.blockBytes_le
  refine ⟨?_, by rw [tailStorage, ← hl, List.take_left]⟩
  simp only [tailStorage, List.length_append, zeros_length, hl]
  omega

/-- For SHA-512 and SHA-384 the two blocks of storage, in order, are TAIL itself (R7, R50). -/
theorem tailStorage_eq_tail {a : Alg} (h : a ≠ .sha256) (tail : Vector Byte 256) :
    tailStorage a tail 0 ++ tailStorage a tail 1 = tail.toList := by
  have hb : a.blockBytes = 128 := by cases a <;> simp_all [Alg.blockBytes]
  have h2 : (tail.toList.drop 128).take 128 = tail.toList.drop 128 := List.take_of_length_le (by simp)
  simp only [tailStorage, tailBlock, hb, zeros, Nat.sub_self, List.replicate_zero, List.append_nil, Nat.mul_zero,
    Nat.mul_one, List.drop_zero, h2, List.take_append_drop]

/-- The final block of a stream is the first block of the tail (R141, R137). -/
theorem streamFinalBlock_eq {a : Alg} {t : List Byte} (h : t.length < a.blockBytes) (lf : Nat) :
    streamFinalBlock a t lf = (tailBlocks a t lf).take a.blockBytes := by
  have hL := a.lenBytes_lt
  cases hf : fitsOneBlock a t.length with
  | true =>
    have hfit := fitsOneBlock_iff.mp hf
    have hl := tailBlocks_length h lf
    rw [hf, if_pos rfl] at hl
    rw [List.take_of_length_le (by omega)]
    simp only [streamFinalBlock, tailBlocks, hf, if_true]
    congr 1
    rw [show a.blockBytes - t.length - 1 = (a.blockBytes - t.length - 1 - a.lenBytes) + a.lenBytes by omega, zeros_add,
      ← List.append_assoc]
    rw [List.take_left' (by simp; omega)]
    rw [show a.blockBytes - t.length - 1 - a.lenBytes + a.lenBytes - a.lenBytes
      = a.blockBytes - t.length - 1 - a.lenBytes by omega]
  | false =>
    have hfit : ¬ t.length + 1 + a.lenBytes ≤ a.blockBytes := by rw [← fitsOneBlock_iff, hf]; decide
    simp only [streamFinalBlock, tailBlocks, hf, Bool.false_eq_true, if_false]
    rw [show 2 * a.blockBytes - t.length - 1 - a.lenBytes
      = (a.blockBytes - t.length - 1) + (a.blockBytes - a.lenBytes) by omega, zeros_add, ← List.append_assoc,
      List.append_assoc (t ++ [0x80] ++ zeros (a.blockBytes - t.length - 1)), List.take_left' (by simp; omega)]

/-- The length-only block of a stream is the second block of the tail (R142, R137). -/
theorem streamLengthBlock_eq {a : Alg} {t : List Byte} (h : t.length < a.blockBytes)
    (hf : fitsOneBlock a t.length = false) (lf : Nat) :
    streamLengthBlock a lf = (tailBlocks a t lf).drop a.blockBytes := by
  have hL := a.lenBytes_lt
  have hfit : ¬ t.length + 1 + a.lenBytes ≤ a.blockBytes := by rw [← fitsOneBlock_iff, hf]; decide
  simp only [streamLengthBlock, tailBlocks, hf, Bool.false_eq_true, if_false]
  rw [show 2 * a.blockBytes - t.length - 1 - a.lenBytes
    = (a.blockBytes - t.length - 1) + (a.blockBytes - a.lenBytes) by omega, zeros_add, ← List.append_assoc,
    List.append_assoc (t ++ [0x80] ++ zeros (a.blockBytes - t.length - 1)), List.drop_left' (by simp; omega)]

end Sys2Proof.Machine
end

