-- ==== Sys2Proof/Laws/Invariant.lean ====
section
/-! SUPPORT. What keeps the invariant of R58: errors, INIT, OPEN_BUF, NEXT, every command, a RunStep. -/

namespace Sys2Proof.Machine

/-- The invariant does not look at the host's agenda. -/
theorem inv_agenda {s : State} (h : s.Inv) (ag : List Turn) : ({ s with agenda := ag } : State).Inv := by
  cases h; constructor <;> assumption

/-- The invariant does not look at the coming reset samples. -/
theorem inv_rst {s : State} (h : s.Inv) (r : List Bool) : ({ s with rst := r } : State).Inv := by
  cases h; constructor <;> assumption

/-- The invariant does not look at the last host read. -/
theorem inv_rdata {s : State} (h : s.Inv) (r : Reg) : ({ s with rdata := r } : State).Inv := by
  cases h; constructor <;> assumption

/-- A command error keeps the invariant (R303). -/
theorem inv_commandError {s : State} (h : s.Inv) {c : ErrCode} (hc : c = .seq ∨ c = .illegal) (w : Word32)
    (hb : s.busy = false) (ha : s.awaiting = false) : (commandError c w s).Inv := by
  cases h
  constructor <;> simp_all <;> rcases hc with rfl | rfl <;> simp_all

/-- A source error keeps the invariant (R304). -/
theorem inv_sourceError {s : State} (h : s.Inv) {c : ErrCode} (hc : c ≠ .none ∧ c ≠ .invariant ∧ c ≠ .resource)
    (w : Word32) (ha : s.awaiting = false) : (sourceError c w s).Inv := by
  cases h
  constructor <;> simp_all
  · split <;> simp_all

/-- INIT keeps the invariant (R272). -/
theorem inv_initialise {s : State} (h : s.Inv) (a : Alg) (ha : s.awaiting = false) (hb : s.busy = false) :
    (initialise a s).Inv := by
  cases h
  constructor <;> simp_all
  · split <;> simp_all

/-- The invariant excludes every case of InvariantBroken (R144, R307). -/
theorem inv_not_invariantBroken {s : State} (h : s.Inv) : invariantBroken s = false := by
  obtain ⟨h1, h2, h3, h4, h5, h6, h7, h8, h9, h10, h11, h12, h13, h14, h15⟩ := h
  unfold invariantBroken
  rcases hs : s.src with _ | _ | _
  · rfl
  · obtain ⟨h3a, h3b⟩ := h3 hs
    by_cases hf : s.fullrem = 0
    · simp_all
    · have := h4 hs hf
      rcases this with h | h <;> simp_all
  · obtain ⟨h5a, h5b⟩ := h5 hs
    rcases h5a with h | h | h <;> simp_all

/-- Delivering a block touches M, BLKCNT and BV only. -/
theorem inv_deliver {s : State} (h : s.Inv) (block : List Byte) : (deliver block s).Inv := { h with }

/-- Exhaustion keeps the invariant (R143). -/
theorem inv_exhausted {s : State} (h : s.Inv) (hps : s.ps = .allPaddingEmitted) (hsrc : s.src ≠ .none) :
    (exhausted s).Inv :=
  { h with
    noSource := fun hn => absurd hn hsrc
    exhaustedPs := fun _ => hps }

/-- Reading a full block keeps the invariant (R140). -/
theorem inv_fullBlock {s : State} (h : s.Inv) (hb : s.src = .buffer) (hf : s.fullrem ≠ 0) (draws : Nat) :
    ({ s with
      bufpos := s.bufpos + BitVec.ofNat 64 s.alg.blockBytes, fullrem := s.fullrem - 1, draws := draws } : State).Inv := by
  have hr := h.bufferInRange hb
  have hpos := s.alg.blockBytes_pos
  have hle := s.alg.blockBytes_le
  have hf1 : 0 < s.fullrem.toNat := by
    rcases Nat.eq_zero_or_pos s.fullrem.toNat with h0 | h0
    · exact absurd (BitVec.eq_of_toNat_eq (by simpa using h0)) hf
    · exact h0
  obtain ⟨q, hq⟩ : ∃ q, s.fullrem.toNat = q + 1 := ⟨s.fullrem.toNat - 1, by omega⟩
  have hfr : (s.fullrem - 1).toNat = q := by
    have := s.fullrem.isLt
    rw [BitVec.toNat_sub, hq]
    simp
    omega
  rw [hq, Nat.add_mul, Nat.one_mul] at hr
  have hbp : (s.bufpos + BitVec.ofNat 64 s.alg.blockBytes).toNat = (s.bufpos.toNat + s.alg.blockBytes) % 2 ^ 64 := by
    simp
  have hrange : (s.bufpos + BitVec.ofNat 64 s.alg.blockBytes).toNat + (s.fullrem - 1).toNat * s.alg.blockBytes
      ≤ 2 ^ 64 := by
    rw [hbp, hfr]
    rcases Nat.eq_zero_or_pos q with h0 | h0
    · subst h0
      have := Nat.mod_lt (s.bufpos.toNat + s.alg.blockBytes) (show 0 < 2 ^ 64 by decide)
      omega
    · have := Nat.mod_le (s.bufpos.toNat + s.alg.blockBytes) (2 ^ 64)
      omega
  exact { h with
    noSource := fun hn => by rw [hb] at hn; cases hn
    bufferUnread := fun _ _ => h.bufferUnread hb hf
    bufferInRange := fun _ => hrange }

/-- A tail block of a buffer keeps the invariant (R140): the next PaddingStatus is a later one. -/
theorem inv_tailPs {s : State} (h : s.Inv) (hb : s.src = .buffer) (hf : s.fullrem = 0) (hne : s.ps ≠ .allPaddingEmitted)
    {p : PaddingStatus} (hp : p ≠ .unpadded) : ({ s with ps := p } : State).Inv :=
  { h with
    noSource := fun hn => by rw [hb] at hn; cases hn
    bufferSource := fun _ => ⟨hp, (h.bufferSource hb).2⟩
    bufferUnread := fun _ hf' => absurd hf hf'
    streamSource := fun hs => by rw [hb] at hs; cases hs
    exhaustedPs := fun hx => absurd (h.exhaustedPs hx) hne
    awaitingRead := fun ha => by have := (h.awaitingRead ha).2.1; rw [hb] at this; cases this }

/-- The last block of a stream keeps the invariant (R142). -/
theorem inv_lengthOnly {s : State} (h : s.Inv) (hs : s.src = .stream) (hso : s.sopen = false) (hu : s.ps ≠ .unpadded) :
    ({ s with ps := .allPaddingEmitted } : State).Inv :=
  { h with
    noSource := fun hn => by rw [hs] at hn; cases hn
    bufferSource := fun hb => by rw [hs] at hb; cases hb
    bufferUnread := fun hb => by rw [hs] at hb; cases hb
    streamSource := fun _ => ⟨.inr (.inr rfl), by simp [hso]⟩
    exhaustedPs := fun _ => rfl
    awaitingRead := fun ha => absurd (h.awaitingRead ha).2.2.1 hu }

/-- The count of message bits keeps the invariant while it fits its field (R145). -/
theorem inv_len {s : State} (h : s.Inv) {k : Nat} (hl : s.len.toNat + 8 * k < 2 ^ s.alg.lenBits) :
    ({ s with len := s.len + BitVec.ofNat 128 (8 * k) } : State).Inv := by
  refine { h with lenFits := fun ha => ?_ }
  have ha : s.alg = .sha256 := ha
  rw [ha] at hl
  have hl : s.len.toNat + 8 * k < 2 ^ 64 := hl
  have : (s.len + BitVec.ofNat 128 (8 * k)).toNat = s.len.toNat + 8 * k := by
    rw [BitVec.toNat_add, BitVec.toNat_ofNat, Nat.mod_eq_of_lt (a := 8 * k) (by omega), Nat.mod_eq_of_lt (by omega)]
  exact this ▸ hl

/-- The end of a stream keeps the invariant (R141): the handle is released and the padding begins. -/
theorem inv_endOfStream {s : State} (h : s.Inv) (hs : s.src = .stream) (hu : s.ps = .unpadded) (hx : s.awaiting = false)
    {p : PaddingStatus} (hp : p = .doubleBlockFirstHalfEmitted ∨ p = .allPaddingEmitted) :
    ({ closeStream s with ps := p } : State).Inv := by
  have hso : s.sopen = true := (h.streamSource hs).2.mpr hu
  have he : s.exh = false := by
    cases hx' : s.exh with
    | false => rfl
    | true => have := h.exhaustedPs hx'; rw [hu] at this; cases this
  have hc : closeStream s = { s with sopen := false, provider := s.provider.streamClose } := by simp [closeStream, hso]
  have hh := h.handles
  rw [hso] at hh
  rw [hc]
  exact { h with
    noSource := fun hn => by have hn : s.src = .none := hn; rw [hs] at hn; cases hn
    bufferSource := fun hb => by have hb : s.src = .buffer := hb; rw [hs] at hb; cases hb
    bufferUnread := fun hb => by have hb : s.src = .buffer := hb; rw [hs] at hb; cases hb
    streamSource := fun _ => ⟨.inr hp, by rcases hp with rfl | rfl <;> simp⟩
    exhaustedPs := fun hx' => by have hx' : s.exh = true := hx'; rw [he] at hx'; cases hx'
    handles := by simpa using hh
    awaitingRead := fun ha => by have ha : s.awaiting = true := ha; rw [hx] at ha; cases ha }

/-- The provider's listed answers do not matter to the invariant. -/
theorem inv_listed {s : State} (h : s.Inv) (listed : List ReadAnswer) :
    ({ s with provider.reads.listed := listed } : State).Inv := { h with }

/-- NEXT with the bytes of a StreamRead keeps the invariant (R141, R145, R146). -/
theorem inv_streamBytes {s : State} (h : s.Inv) (w : Word32) (bytes : List Byte) (ha : s.awaiting = false)
    (hs : s.src = .stream) (hu : s.ps = .unpadded) : ∃ t, t.Inv ∧ t.awaiting = false ∧
      ((streamBytes w bytes s = .failed t ∧ t.busy = false) ∨
        (streamBytes w bytes s = .done t ∧ t.cfg = s.cfg ∧ t.src = .stream ∧ t.err = s.err ∧ t.busy = s.busy)) := by
  rcases streamBytes_cases w bytes s with ⟨_, he⟩ | ⟨hl, _, he⟩ | ⟨hl, _, t, ht, he⟩
  · exact ⟨_, inv_sourceError h (by decide) w ha, by simp [ha], .inl ⟨he, by simp⟩⟩
  · exact ⟨_, inv_deliver (inv_len h hl) bytes, by simp [ha], .inr ⟨he, by simp [hs]⟩⟩
  · subst ht
    refine ⟨_, inv_deliver (inv_endOfStream (inv_len h hl) hs hu ha ?_) _, by simp [ha], .inr ⟨he, by simp [hs]⟩⟩
    split
    · exact .inr rfl
    · exact .inl rfl

/-- NEXT's pseudocode keeps the invariant, however it ends (R139 to R146). -/
theorem inv_nextBlock {s t : State} (h : s.Inv) (w : Word32) (ha : s.awaiting = false) (hcfg : s.cfg = true)
    (hsrc : s.src ≠ .none) (herr : s.err = .none) :
    (nextBlock w s = .done t → t.Inv ∧ t.awaiting = false ∧ t.cfg = true ∧ t.src ≠ .none ∧ t.err = .none ∧
      t.busy = s.busy) ∧
    (nextBlock w s = .failed t → t.Inv ∧ t.busy = false) ∧
    (nextBlock w s = .waiting t → ({ t with awaiting := true } : State).Inv) := by
  have hdone : ∀ {u : State}, nextBlock w s = .done u → (u.Inv ∧ u.awaiting = false ∧ u.cfg = true ∧ u.src ≠ .none ∧
      u.err = .none ∧ u.busy = s.busy) → (nextBlock w s = .done t → t.Inv ∧ t.awaiting = false ∧ t.cfg = true ∧
      t.src ≠ .none ∧ t.err = .none ∧ t.busy = s.busy) ∧ (nextBlock w s = .failed t → t.Inv ∧ t.busy = false) ∧
      (nextBlock w s = .waiting t → ({ t with awaiting := true } : State).Inv) := by
    intro u he hu
    rw [he]
    exact ⟨fun e => by cases e; exact hu, fun e => (nomatch e), fun e => (nomatch e)⟩
  have hfail : ∀ {u : State}, nextBlock w s = .failed u → (u.Inv ∧ u.busy = false) → (nextBlock w s = .done t → t.Inv ∧
      t.awaiting = false ∧ t.cfg = true ∧ t.src ≠ .none ∧ t.err = .none ∧ t.busy = s.busy) ∧
      (nextBlock w s = .failed t → t.Inv ∧ t.busy = false) ∧
      (nextBlock w s = .waiting t → ({ t with awaiting := true } : State).Inv) := by
    intro u he hu
    rw [he]
    exact ⟨fun e => (nomatch e), fun e => by cases e; exact hu, fun e => (nomatch e)⟩
  have hnb := inv_not_invariantBroken h
  have hstream : s.src ≠ .buffer → s.src = .stream := by
    intro hb
    rcases hx : s.src with _ | _ | _
    · exact absurd hx hsrc
    · exact absurd hx hb
    · rfl
  rcases nextBlock_cases w s with c | c | c | c | c | c | c
  · rw [hnb] at c; exact absurd c.1 (by decide)
  · obtain ⟨_, hps, he⟩ := c
    exact hdone he ⟨inv_exhausted h hps hsrc, ha, hcfg, hsrc, herr, rfl⟩
  · obtain ⟨_, _, _, _, _, he⟩ := c
    exact hfail he ⟨inv_sourceError h (by decide) w ha, rfl⟩
  · obtain ⟨_, _, hb, hf, block, _, he⟩ := c
    exact hdone he ⟨inv_deliver (inv_fullBlock h hb hf _) block, ha, hcfg, hsrc, herr, rfl⟩
  · obtain ⟨_, hb, hf, ⟨hps, he⟩ | ⟨hps, he⟩ | ⟨hps, he⟩⟩ := c <;>
      exact hdone he ⟨inv_deliver (inv_tailPs h hb hf (by rw [hps]; decide) (by decide)) _, ha, hcfg, hsrc, herr, rfl⟩
  · obtain ⟨_, hb, hu, listed, _, ⟨_, he⟩ | ⟨_, he⟩ | ⟨bytes, _, _, he⟩⟩ := c
    · rw [he]
      refine ⟨fun e => (nomatch e), fun e => (nomatch e), fun e => ?_⟩
      cases e
      exact { inv_listed h listed with awaitingRead := fun _ => ⟨hcfg, hstream hb, hu, herr⟩ }
    · exact hfail he ⟨inv_sourceError (inv_listed h listed) (by decide) w ha, rfl⟩
    · obtain ⟨u, hi, hw, ⟨h2, hbz⟩ | ⟨h2, hc, hs, hee, hbz⟩⟩ := inv_streamBytes (inv_listed h listed) w bytes ha (hstream hb) hu
      · exact hfail (he.trans h2) ⟨hi, hbz⟩
      · exact hdone (he.trans h2) ⟨hi, hw, hc.trans hcfg, by rw [hs]; decide, hee.trans herr, hbz⟩
  · obtain ⟨_, hb, hu, _, he⟩ := c
    have hs := hstream hb
    have hso : s.sopen = false := by
      cases hx : s.sopen with
      | false => rfl
      | true => exact absurd ((h.streamSource hs).2.mp hx) hu
    exact hdone he ⟨inv_deliver (inv_lengthOnly h hs hso hu) _, ha, hcfg, hsrc, herr, rfl⟩

/-- Opening a buffer that fits keeps the invariant (R73, R136). -/
theorem inv_openedBuffer {s : State} (h : s.Inv) (hb : s.busy = false) (ha : s.awaiting = false) (hc : s.cfg = true)
    (hs : s.src = .none) (t : List Byte) {lf full : Nat} (hl : lf < 2 ^ s.alg.lenBits)
    (hr : s.addr.toNat + full * s.alg.blockBytes ≤ 2 ^ 64) : (openedBuffer t lf full s).Inv := by
  have hso := (h.noSource hs).2.2.1
  have hps : ∀ p : PaddingStatus, p = (if fitsOneBlock s.alg t.length then PaddingStatus.paddedSingleBlock
      else .paddedDoubleBlock) → p = .paddedSingleBlock ∨ p = .paddedDoubleBlock := by
    rintro p rfl
    split
    · exact .inl rfl
    · exact .inr rfl
  have hfull : (BitVec.ofNat 64 full).toNat ≤ full := by
    rw [BitVec.toNat_ofNat]
    exact Nat.mod_le _ _
  have hps' : ∀ p : PaddingStatus, p = .paddedSingleBlock ∨ p = .paddedDoubleBlock → p ≠ .unpadded := by
    rintro p (rfl | rfl) <;> decide
  exact { h with
    unconfigured := fun hf => by rw [show s.cfg = false from hf] at hc; cases hc
    noSource := fun hn => (nomatch hn)
    bufferSource := fun _ => ⟨hps' _ (hps _ rfl), hso⟩
    bufferUnread := fun _ _ => hps _ rfl
    streamSource := fun hn => (nomatch hn)
    exhaustedPs := fun hx => (nomatch hx)
    busyRun := fun hx => by rw [show s.busy = true from hx] at hb; cases hb
    lenFits := fun hal => by
      have hal : s.alg = .sha256 := hal
      rw [hal] at hl
      have hl : lf < 2 ^ 64 := hl
      show (BitVec.ofNat 128 lf).toNat < 2 ^ 64
      rw [BitVec.toNat_ofNat]
      exact Nat.lt_of_le_of_lt (Nat.mod_le _ _) hl
    bufferInRange := fun _ =>
      Nat.le_trans (Nat.add_le_add_left (Nat.mul_le_mul_right _ hfull) _) hr
    awaitingRead := fun hx => by rw [show s.awaiting = true from hx] at ha; cases ha
    dirtySource := fun hn => absurd rfl hn }

/-- OPEN_BUF keeps the invariant (R136). -/
theorem inv_openBuf {s : State} (h : s.Inv) (mode : LengthFieldMode) (w : Word32) (ha : s.awaiting = false)
    (hb : s.busy = false) : (openBuf mode w s).Inv := by
  unfold openBuf
  split_ifs with c1
  · exact inv_commandError h (.inl rfl) w hb ha
  · push Not at c1
    dsimp only
    split_ifs with c2 c3
    · exact inv_sourceError h (by decide) _ ha
    · exact inv_sourceError h (by decide) _ ha
    · split
      · exact inv_sourceError h (by decide) _ ha
      · refine inv_openedBuffer h hb ha (by simpa using c1.1) c1.2 _ (Nat.lt_of_not_le c2) ?_
        have := Nat.div_mul_le_self (messageBytes s.nbits.toNat) s.alg.blockBytes
        omega

/-- The provider's answers do not matter to the invariant, its counts do. -/
theorem inv_provider {s : State} (h : s.Inv) {p : Provider} (ho : p.opened = s.provider.opened)
    (hc : p.closed = s.provider.closed) : ({ s with provider := p } : State).Inv :=
  { h with handles := by rw [ho, hc]; exact h.handles }

/-- OPEN_STREAM keeps the invariant (R138). -/
theorem inv_openStream {s : State} (h : s.Inv) (w : Word32) (ha : s.awaiting = false) (hb : s.busy = false) :
    (openStream w s).Inv := by
  unfold openStream
  split_ifs with c1
  · exact inv_commandError h (.inl rfl) w hb ha
  · push Not at c1
    have hc : s.cfg = true := by simpa using c1.1
    have hso := (h.noSource c1.2).2.2.1
    have hopened := Provider.streamOpen_opened s.provider
    have hclosed := Provider.streamOpen_closed s.provider
    rcases hq : s.provider.streamOpen with ⟨ok, p⟩
    rw [hq] at hopened hclosed
    have hh := h.handles
    rw [hso] at hh
    cases ok with
    | true =>
      have hopened : p.opened = s.provider.opened + 1 := hopened
      have hclosed : p.closed = s.provider.closed := hclosed
      have hcount : p.opened = p.closed + true.toNat := by rw [hopened, hclosed, hh]; rfl
      exact { h with
        unconfigured := fun hf => by rw [show s.cfg = false from hf] at hc; cases hc
        noSource := fun hn => (nomatch hn)
        bufferSource := fun hn => (nomatch hn)
        bufferUnread := fun hn => (nomatch hn)
        streamSource := fun _ => ⟨.inl rfl, iff_of_true rfl rfl⟩
        exhaustedPs := fun hx => (nomatch hx)
        busyRun := fun hx => by rw [show s.busy = true from hx] at hb; cases hb
        lenFits := fun _ => show (0 : BitVec 128).toNat < 2 ^ 64 by decide
        bufferInRange := fun hn => (nomatch hn)
        handles := hcount
        awaitingRead := fun hx => by rw [show s.awaiting = true from hx] at ha; cases ha
        dirtySource := fun _ => h.dirtySource (by rw [c1.2]; decide) }
    | false => exact inv_sourceError (inv_provider h hopened hclosed) (by decide) _ ha

/-- A compression touches H and BV only. -/
theorem inv_compressBlock {s : State} (h : s.Inv) : (compressBlock s).Inv := { h with }

/-- Every command keeps the invariant. -/
theorem inv_exec {s t : State} (h : s.Inv) (i : Instr) (ha : s.awaiting = false) (hb : s.busy = false)
    (he : exec i s = .next t) : t.Inv := by
  have keep : ∀ u : State, (s.err = .none → u.Inv) → (unlessError s u).Inv := by
    intro u hu
    unfold unlessError
    split_ifs with hx
    · exact hu hx
    · exact h
  cases i <;> cases he
  · exact h
  · exact inv_initialise h _ ha hb
  · exact inv_initialise h _ ha hb
  · exact inv_initialise h _ ha hb
  · exact keep _ fun _ => inv_openBuf h _ _ ha hb
  · exact keep _ fun _ => inv_openStream h _ ha hb
  · refine keep _ fun hx => ?_
    split_ifs with c
    · exact inv_commandError h (.inl rfl) _ hb ha
    · push Not at c
      have hn := fun t => inv_nextBlock (t := t) h (encode .next) ha (by simpa using c.1) c.2 hx
      rcases hr : nextBlock (encode .next) s with t | t | t
      · exact ((hn t).1 hr).1
      · exact ((hn t).2.1 hr).1
      · exact (hn t).2.2 hr
  · refine keep _ fun _ => ?_
    split_ifs
    · exact inv_commandError h (.inl rfl) _ hb ha
    · exact inv_compressBlock h
  · refine keep _ fun hx => ?_
    split_ifs with c
    · exact inv_commandError h (.inl rfl) _ hb ha
    · push Not at c
      exact { h with busyRun := fun _ => ⟨by simpa using c.1, c.2, hx⟩ }

/-- A RunStep keeps the invariant (R276, R277). -/
theorem inv_runStep {s : State} (h : s.Inv) (hb : s.busy = true) : (runStep s).Inv := by
  obtain ⟨hc, hs, he⟩ := h.busyRun hb
  have h0 : ({ s with awaiting := false } : State).Inv := { h with awaitingRead := fun hx => (nomatch hx) }
  have hn := fun t => inv_nextBlock (t := t) h0 (encode .run) rfl hc hs he
  unfold runStep
  rcases hr : nextBlock (encode .run) { s with awaiting := false } with t | t | t
  · have hi := ((hn t).1 hr).1
    dsimp only
    split_ifs
    · exact { hi with busyRun := fun hx => (nomatch hx) }
    · exact inv_compressBlock hi
  · exact { ((hn t).2.1 hr).1 with busyRun := fun hx => (nomatch hx) }
  · exact (hn t).2.2 hr

end Sys2Proof.Machine
end

