-- ==== Sys2Proof/Laws/PerInstr.lean ====
section
/-! SUPPORT. The statements made per instruction: EncodeDecode, the encoding of each command (R100 to R105). -/

namespace Sys2Proof.Laws

/-- A command is well-formed, its word is legal (R101), the decoder reads the command back from the CMD write and from
the table's row, and the word has OP and ALGF in their places with RSV = 0 (R100). -/
def EncodeDecode.Statement (i : Instr) : Prop :=
  i.wellFormed = true ∧ commandLegal (cmdWrite i) = true ∧ decode (cmdWrite i) = .instr i ∧
    decodeTableWord 32 (encode i).toNat = some i ∧
    fieldOp (cmdWrite i) = i.opcode ∧ fieldAlg (cmdWrite i) = i.algField ∧ fieldRsv (cmdWrite i) = 0 ∧
    fieldHi (cmdWrite i) = 0

theorem EncodeDecode.nop : EncodeDecode.Statement .nop := by unfold EncodeDecode.Statement; decide
theorem EncodeDecode.initSha256 : EncodeDecode.Statement .initSha256 := by unfold EncodeDecode.Statement; decide
theorem EncodeDecode.initSha512 : EncodeDecode.Statement .initSha512 := by unfold EncodeDecode.Statement; decide
theorem EncodeDecode.initSha384 : EncodeDecode.Statement .initSha384 := by unfold EncodeDecode.Statement; decide
theorem EncodeDecode.openBuf : EncodeDecode.Statement .openBuf := by unfold EncodeDecode.Statement; decide
theorem EncodeDecode.openStream : EncodeDecode.Statement .openStream := by unfold EncodeDecode.Statement; decide
theorem EncodeDecode.next : EncodeDecode.Statement .next := by unfold EncodeDecode.Statement; decide
theorem EncodeDecode.compress : EncodeDecode.Statement .compress := by unfold EncodeDecode.Statement; decide
theorem EncodeDecode.run : EncodeDecode.Statement .run := by unfold EncodeDecode.Statement; decide

end Sys2Proof.Laws
end

