-- ==== Sys2Proof/Laws/Rounds.lean ====
section
/-! SUPPORT. The word functions of the engines: rotation, and the sizes of the constants and of a schedule. -/

namespace Sys2Proof.Machine

/-- ROTR is the library's rotation (R9). -/
theorem rotr_eq_rotateRight {w n : Nat} (hn : n < w) (x : BitVec w) : rotr n x = x.rotateRight n := by
  rw [rotr, BitVec.rotateRight_def, Nat.mod_eq_of_lt hn]

theorem k256_length : k256.length = 64 := by decide

theorem k512_length : k512.length = 80 := by decide

theorem extend_length {w : Nat} (E : Engine w) : ∀ (n : Nat) (older : List (BitVec w)),
    (E.extend n older).length = older.length + n
  | 0, _ => rfl
  | n + 1, older => by
    rw [Engine.extend, extend_length E n, List.length_cons]
    omega

/-- A schedule has a word for each constant (R205, R246). -/
theorem schedule_length {w : Nat} (E : Engine w) (block : Vector (BitVec w) 16) (hk : 16 ≤ E.k.length) :
    (E.schedule block).length = E.k.length := by
  simp only [Engine.schedule, List.length_reverse, extend_length, Vector.length_toList]
  omega

end Sys2Proof.Machine
end

