-- ==== Sys2Proof/Tests/Slice0.lean ====
section
/-! SUPPORT. Own tests: the well-formedness checks, the words of the opcode table, one step of each command against the spec's vectors
(95_test_vectors.md), and a witness for the hypotheses of each statement. -/

namespace Sys2Proof.Tests

set_option Elab.async false

open Sys2Proof.Machine

/-! ### Small states -/

/-- The state an outcome answers, if it is a next state. -/
def stateOf : Result → Option State
  | .next s => some s
  | .fault _ => none
  | .refused _ => none

/-- STATUS after a command, as the host reads it. -/
def statusAfter (i : Instr) (s : State) : Option Reg := (stateOf (exec i s)).map fun t => readReg t 0x008

/-- STATUS and ERRCMD after a command. -/
def errorAfter (i : Instr) (s : State) : Option (Reg × Word32) :=
  (stateOf (exec i s)).map fun t => (readReg t 0x008, t.errcmd)

/-- n bytes 0x61 at address a. -/
def bytesAt (a n : Nat) : Memory := (List.range n).map fun i => (a + i, 0x61)

/-- After INIT of an algorithm, from reset. -/
def configured (a : Alg) : State := { State.reset with alg := a, cfg := true, h := initVector a }

/-- INIT sha256, with the three bytes of "abc" at 0x1000 (V2). -/
def abcState : State :=
  { configured .sha256 with addr := 0x1000, nbits := 24, mem := [(0x1000, 0x61), (0x1001, 0x62), (0x1002, 0x63)] }

/-- INIT sha256, with a buffer of nbits bits 0x61 at 0x1000 (V26). -/
def bufferState (nbits : Nat) : State :=
  { configured .sha256 with addr := 0x1000, nbits := BitVec.ofNat 64 nbits, mem := bytesAt 0x1000 ((nbits + 7) / 8) }

/-- An open stream that answers as listed, and then with no byte. -/
def streamState (a : Alg) (answers : List ReadAnswer) : State :=
  { configured a with
    src := .stream, sopen := true
    provider := { opens := ⟨[], false⟩, reads := ⟨answers, .data []⟩, opened := 1, closed := 0 } }

/-- The same stream during a RUN. -/
def runningStream (answers : List ReadAnswer) : State := { streamState .sha256 answers with busy := true }

/-- A state with a buffer source open at a given point of its tail. -/
def tailState (p : PaddingStatus) : State := { bufferState 448 with src := .buffer, ps := p, bufpos := 0x1000 }

/-- A state with one full block still to read. -/
def fullState (mem : Memory) : State :=
  { configured .sha256 with src := .buffer, ps := .paddedSingleBlock, bufpos := 0x1000, fullrem := 1, mem := mem }

/-- A state in which the host's next turn is given. -/
def withTurn (t : Turn) (s : State) : State := { s with agenda := [t] }

/-- The block of "abc" (V2), in the M registers. -/
def abcBlock : Vector Reg 16 := #v[0x61626380, 0, 0, 0, 0, 0, 0, 0, 0, 0, 0, 0, 0, 0, 0, 0x18]

/-! ### Well-formedness: an ill-formed term for each check -/

theorem test_legal_refuses_high_half : commandLegal 0x0000000100000000 = false := by decide
theorem test_legal_refuses_reserved_bits : commandLegal 0x0000000000000400 = false := by decide
theorem test_legal_refuses_opcode_seven : commandLegal 0x0000000000000007 = false := by decide
theorem test_legal_refuses_alg_field_on_next : commandLegal 0x0000000000000104 = false := by decide
theorem test_legal_refuses_alg_three : commandLegal 0x0000000000000301 = false := by decide
theorem test_access_refuses_narrow : accessWellFormed 32 0x008 = false := by decide
theorem test_access_refuses_unaligned : accessWellFormed 64 0x00c = false := by decide
theorem test_access_check_is_the_machines : ∀ off : Fin 256, accessWellFormed 64 off = accessOk 64 off := by decide +kernel
theorem test_instructions_are_well_formed : allInstrs.all Instr.wellFormed = true := by decide

/-! ### Decoding: words written out from R100 to R103 (V20) -/

theorem test_word_nop : decode 0b00000000000000000000000000000000#64 = .instr .nop := by decide
theorem test_word_init_sha256 : decode 0b00000000000000000000000000000001#64 = .instr .initSha256 := by decide
theorem test_word_init_sha512 : decode 0b00000000000000000000000100000001#64 = .instr .initSha512 := by decide
theorem test_word_init_sha384 : decode 0b00000000000000000000001000000001#64 = .instr .initSha384 := by decide
theorem test_word_open_buf : decode 0b00000000000000000000000000000010#64 = .instr .openBuf := by decide
theorem test_word_open_stream : decode 0b00000000000000000000000000000011#64 = .instr .openStream := by decide
theorem test_word_next : decode 0b00000000000000000000000000000100#64 = .instr .next := by decide
theorem test_word_compress : decode 0b00000000000000000000000000000101#64 = .instr .compress := by decide
theorem test_word_run : decode 0b00000000000000000000000000000110#64 = .instr .run := by decide

theorem test_illegal_words :
    decode 0x0000000000000301 = .illegal .algReserved ∧ decode 0x0000000000000007 = .illegal .opcode ∧
    decode 0x00000000000000ff = .illegal .opcode ∧ decode 0x0000000000000104 = .illegal .algField ∧
    decode 0x0000000000000100 = .illegal .algField ∧ decode 0x0000000000000400 = .illegal .reservedBits ∧
    decode 0x0000000080000006 = .illegal .reservedBits ∧ decode 0x0000000100000000 = .illegal .highHalf ∧
    decode 0xffffffff00000001 = .illegal .highHalf := by decide

theorem test_table_words :
    decodeTableWord 32 0x00000201 = some .initSha384 ∧ decodeTableWord 32 0x00000006 = some .run ∧
    decodeTableWord 32 0x00000301 = none := by decide

theorem test_assembler_ignores_case :
    assemble "OPEN_BUF".toList = some .openBuf ∧ assemble "init SHA384".toList = some .initSha384 ∧
    assemble "start".toList = none := by decide

/-! ### Normalizer and word functions (V21, V22, V23) -/

theorem test_normalize_sha256 :
    let m := normalize .sha256 ((List.range 64).map fun i => BitVec.ofNat 8 i)
    m[0] = 0x00010203 ∧ m[1] = 0x04050607 ∧ m[15] = 0x3c3d3e3f := by decide +kernel

theorem test_normalize_sha512 :
    let m := normalize .sha512 ((List.range 128).map fun i => BitVec.ofNat 8 i)
    m[0] = 0x0001020304050607 ∧ m[15] = 0x78797a7b7c7d7e7f := by decide +kernel

theorem test_length_field_bytes : beBytes 8 448 = [0, 0, 0, 0, 0, 0, 0x01, 0xc0] := by decide

theorem test_sigma256 :
    Sha256.bigSigma0 0x6a09e667 = 0xce20b47e ∧ Sha256.bigSigma1 0x6a09e667 = 0x55b65510 ∧
    Sha256.smallSigma0 0x6a09e667 = 0xba0cf582 ∧ Sha256.smallSigma1 0x6a09e667 = 0xcfe5da3c := by decide

theorem test_sigma512 :
    Sha512.bigSigma0 0x8000000000000000 = 0x0000000821000000 ∧
    Sha512.bigSigma1 0x8000000000000000 = 0x0002200000400000 ∧
    Sha512.smallSigma0 0x8000000000000000 = 0x4180000000000000 ∧
    Sha512.smallSigma1 0x8000000000000000 = 0x0200100000000004 := by decide

theorem test_ch_and_maj :
    ch (0x510e527f : Word32) 0x9b05688c 0x1f83d9ab = 0x1f85c98c ∧
    maj (0x6a09e667 : Word32) 0xbb67ae85 0x3c6ef372 = 0x3a6fe667 := by decide

/-- V22, V23: the first and the last round constant of each table. -/
theorem test_first_and_last_constants :
    (k256.head?, k256.getLast?) = (some 0x428a2f98, some 0xc67178f2) ∧
    (k512.head?, k512.getLast?) = (some 0x428a2f98d728ae22, some 0x6c44198c4a475817) := by decide +kernel

/-! ### NOP, INIT, COMPRESS, RUN (V24, V25, V31, V32) -/

theorem test_nop_keeps_an_error :
    errorAfter .nop { State.reset with err := .seq, errcmd := 0x2 } = some (0x2000, 0x2) := by decide +kernel

theorem test_init_sha256_from_an_error :
    errorAfter .initSha256 { State.reset with err := .seq, errcmd := 0x2 } = some (0x0004, 0) := by decide +kernel

theorem test_init_sha256_first_and_last_word :
    (stateOf (exec .initSha256 State.reset)).map (fun t => (t.h[0], t.h[7])) = some (0x6a09e667, 0x5be0cd19) := by
  decide +kernel

theorem test_init_sha512_first_and_last_word :
    (stateOf (exec .initSha512 State.reset)).map (fun t => (t.h[0], t.h[7]))
      = some (0x6a09e667f3bcc908, 0x5be0cd19137e2179) := by decide +kernel

/-- V25: the stream of the row before is closed. -/
theorem test_init_sha384_closes_the_stream :
    (stateOf (exec .initSha384 { streamState .sha256 [] with len := 512, blkcnt := 1, bv := true })).map
      (fun t => (readReg t 0x008, t.len.toNat, t.blkcnt, t.provider.closed, t.h[7]))
      = some (0x0006, 0, 0, 1, 0x47b5481dbefa4fa4) := by decide +kernel

theorem test_compress_abc_sha256 :
    (stateOf (exec .compress { configured .sha256 with m := abcBlock })).map (fun t => t.h)
      = some #v[0xba7816bf, 0x8f01cfea, 0x414140de, 0x5dae2223, 0xb00361a3, 0x96177a9c, 0xb410ff61, 0xf20015ad] := by
  decide +kernel

theorem test_compress_zeros_sha512 :
    (stateOf (exec .compress { configured .sha512 with h := nullDigest })).map (fun t => (t.h[0], t.h[7]))
      = some (0xad3a5da838ebf830, 0x568c0d99d756dc3c) := by decide +kernel

theorem test_compress_abc_sha384 :
    (stateOf (exec .compress { configured .sha384 with
        m := #v[0x6162638000000000, 0, 0, 0, 0, 0, 0, 0, 0, 0, 0, 0, 0, 0, 0, 0x18] })).map
        (fun t => (t.h[0], t.h[5], t.h[7]))
      = some (0xcb00753f45a35e8b, 0x58baeca134c825a7, 0x0c66918ece57ba15) := by decide +kernel

/-- V24: the upper halves of H and M are ignored, and cleared in H. -/
theorem test_compress_ignores_upper_halves :
    (stateOf (exec .compress { configured .sha256 with
        h := (initVector .sha256).map (· ||| 0xdeadbeef00000000), m := abcBlock.map (· ||| 0xffffffff00000000) })).map
        (fun t => (t.h[0], t.h[7])) = some (0xba7816bf, 0xf20015ad) := by decide +kernel

theorem test_compress_before_init : errorAfter .compress State.reset = some (0x2000, 0x5) := by decide +kernel

theorem test_run_before_init : errorAfter .run State.reset = some (0x2000, 0x6) := by decide +kernel

theorem test_run_without_a_source : statusAfter .run (configured .sha256) = some 0x2004 := by decide +kernel

/-- V31: three full reads of 64 bytes have been taken; the fourth RunStep. -/
theorem test_run_step_of_a_full_read :
    let t := runStep { runningStream [.data (List.replicate 64 0x61)] with len := 1536, blkcnt := 3 }
    (readReg t 0x008, t.len.toNat, t.blkcnt) = (0x0c14, 2048, 4) := by decide +kernel

/-- V32: ioerr at the second RunStep. -/
theorem test_run_step_of_an_io_error :
    let t := runStep { runningStream [.ioerr] with len := 512, blkcnt := 1 }
    (readReg t 0x008, t.errcmd, t.len.toNat, t.blkcnt, t.provider.closed) = (0x4004, 0x6, 512, 1, 1) := by
  decide +kernel

/-! ### OPEN_BUF and OPEN_STREAM (V26, V30, V32) -/

theorem test_open_buf_abc : statusAfter .openBuf abcState = some 0x002c := by decide +kernel

theorem test_open_buf_tail_of_56_bytes :
    (stateOf (exec .openBuf (bufferState 448))).map
      (fun t => (t.ps, t.tail.toList.take 128))
      = some (.paddedDoubleBlock, List.replicate 56 0x61 ++ [0x80] ++ zeros 63 ++ [0, 0, 0, 0, 0, 0, 0x01, 0xc0]) := by
  decide +kernel

/-- R7: after the same OPEN_BUF the first 64 bytes of the second 128-byte block of storage are the second tail block. -/
theorem test_open_buf_tail_storage :
    (stateOf (exec .openBuf (bufferState 448))).map (fun t => tailStorage t.alg t.tail 1)
      = some (zeros 56 ++ [0, 0, 0, 0, 0, 0, 0x01, 0xc0] ++ zeros 64) := by
  decide +kernel

theorem test_open_buf_past_the_top :
    errorAfter .openBuf { configured .sha256 with addr := 0xfffffffffffffffe, nbits := 24 } = some (0x5004, 0x2) := by
  decide +kernel

theorem test_open_buf_too_long :
    errorAfter .openBuf { configured .sha256 with nbits := 0xfffffffffffffff9 } = some (0x6004, 0x2) := by
  decide +kernel

/-- V30: 12 bits are two bytes; LEN is 16 under ROUNDED and 12 under ORIGINAL. -/
theorem test_open_buf_twelve_bits :
    let s := { configured .sha256 with addr := 0x1000, nbits := 12, mem := [(0x1000, 0xab), (0x1001, 0xab)] }
    ((openBuf .rounded 0x2 s).len.toNat, (openBuf .original 0x2 s).len.toNat) = (16, 12) := by decide +kernel

theorem test_open_stream_ok :
    (stateOf (exec .openStream { configured .sha512 with
      provider := { opens := ⟨[true], false⟩, reads := ⟨[], .later⟩, opened := 0, closed := 0 } })).map
      (fun t => (readReg t 0x008, t.provider.opened)) = some (0x0815, 1) := by decide +kernel

theorem test_open_stream_fails : errorAfter .openStream (configured .sha256) = some (0x3004, 0x3) := by
  decide +kernel

/-! ### NEXT (V27, V28, V32) -/

/-- V27: the first NEXT on the 56-byte message, here with bytes 0x61 (V28's row ok(56) has the same block). -/
theorem test_next_first_half :
    (stateOf (exec .next (streamState .sha256 [.data (List.replicate 56 0x61)]))).map
      (fun t => (t.m[13], t.m[14], t.m[15], t.ps, t.sopen, t.len.toNat))
      = some (0x61616161, 0x80000000, 0, .doubleBlockFirstHalfEmitted, false, 448) := by decide +kernel

theorem test_next_length_only_block :
    (stateOf (exec .next { streamState .sha256 [] with
      ps := .doubleBlockFirstHalfEmitted, sopen := false, len := 448, blkcnt := 1 })).map
      (fun t => (readReg t 0x008, t.m[14], t.m[15], t.blkcnt)) = some (0x0294, 0, 0x1c0, 2) := by decide +kernel

/-- V32: the bit count no longer fits; the answer ok(63) still would. -/
theorem test_next_stream_too_long :
    errorAfter .next { streamState .sha256 [.data (List.replicate 64 0x61)] with len := 0xfffffffffffffe00 }
      = some (0x6004, 0x4) := by decide +kernel

theorem test_next_stream_just_fits :
    (stateOf (exec .next
      { streamState .sha256 [.data (List.replicate 63 0x61)] with len := 0xfffffffffffffe00 })).map
      (fun t => (t.err, t.len.toNat)) = some (.none, 2 ^ 64 - 512 + 504) := by decide +kernel

/-! ### The register window, memory and the host (R31, R32, R71) -/

theorem test_write_m15 : (writeReg 0x0f8 0x18 State.reset).m[15] = 0x18 := by decide +kernel

theorem test_write_to_status_is_ignored : writeReg 0x008 0xffff State.reset = State.reset := rfl

theorem test_read_len_hi : readReg { State.reset with len := 0x10000000000000000 } 0x030 = 1 := by decide

theorem test_memory_store_and_stop :
    let mem := (Memory.set [] 5 (some 1)).set 3 (some 2)
    (mem, mem.read 5, mem.set 5 none) = ([(3, 2), (5, 1)], some 1, [(3, 2)]) := by decide +kernel

/-- R75: the marked byte of the two is the free value of its number. -/
theorem test_mem_read_of_a_marked_byte :
    memRead [(5, 0x11), (6, 0x22)] [6] 10 5 2 = some [0x11, Config.freeByte 11] := rfl

/-- R348: the write stays on the agenda, and the RunStep (an empty read ends the stream) is taken. -/
theorem test_write_is_held_while_busy :
    (stateOf (step (withTurn (.write 64 0x018 5) (runningStream [])))).map
      (fun t => (t.agenda, t.addr, t.blkcnt, t.ps)) = some ([.write 64 0x018 5], 0, 1, .allPaddingEmitted) := by
  decide +kernel

theorem test_narrow_write_is_refused : stateOf (step (withTurn (.write 32 0x018 5) State.reset)) = none := by
  decide +kernel

/-- V33: a reset with a stream open closes it and clears every register. -/
theorem test_reset_closes_the_stream :
    (stateOf (step { runningStream [] with rst := [true] })).map
      (fun t => (readReg t 0x008, t.provider.closed, t.h)) = some (0, 1, nullDigest) := by decide +kernel

/-! ### Witnesses: states and operands that meet the hypotheses of each statement -/

/-- The reset state meets the invariant. -/
theorem reset_inv : State.reset.Inv := by constructor <;> decide +kernel

theorem reset_atReset : State.reset.atReset := ⟨[], _, _, [], [], by decide, rfl⟩

/-- An illegal word is no command. -/
theorem illegal_word {v : BitVec 64} {why : Illegal} (h : decode v = .illegal why) : ¬ ∃ i, decode v = .instr i := by
  rintro ⟨i, hi⟩
  rw [h] at hi
  cases hi

theorem witness_WordIsLegalExactlyByItsFields :
    (¬ ∃ i, decode 0x0000000000000301 = .instr i) ∧ State.reset.err = .none :=
  ⟨illegal_word (why := .algReserved) (by decide), rfl⟩

/-- One word of each class (a) to (e) of R104, and a CORE without an error. -/
theorem witness_IllegalWritesOnlyRecordTheError :
    State.reset.err = .none ∧
      ∀ v ∈ [(0x0000000100000000 : BitVec 64), 0x400, 0x7, 0x104, 0x301], ¬ ∃ i, decode v = .instr i := by
  refine ⟨rfl, ?_⟩
  intro v hv
  have h : ∃ why, decode v = .illegal why := by
    fin_cases hv
    · exact ⟨.highHalf, by decide⟩
    · exact ⟨.reservedBits, by decide⟩
    · exact ⟨.opcode, by decide⟩
    · exact ⟨.algField, by decide⟩
    · exact ⟨.algReserved, by decide⟩
  obtain ⟨why, h⟩ := h
  exact illegal_word h

theorem witness_DecodeAndEncodeAgree :
    Instr.wellFormed .run = true ∧ decode 0x0000000000000201 = .instr .initSha384 := by decide

theorem witness_StepRunsTheDecodedCommand :
    let s := withTurn (.write 64 0x000 0x4) { streamState .sha256 [] with rst := [false] }
    ¬ resetAsserted s ∧ s.busy = false ∧ s.awaiting = false ∧ s.agenda = .write 64 0x000 0x4 :: [] ∧
      decode 0x4 = .instr .next := by
  refine ⟨by simp [resetAsserted, withTurn], rfl, rfl, rfl, by decide⟩

theorem witness_FetchWordStepRunsTheRow :
    decodeTableWord 32 0x00000101 = some .initSha512 ∧ decodeTableWord 32 0x00000006 = some .run := by decide

/-- Each clause has its state: a waiting NEXT, a RUN with an empty or idle agenda, an idle host, a memory turn during a
RUN and outside one. -/
theorem witness_StepWithoutAHostTurn :
    (let s := { streamState .sha256 [] with awaiting := true };
      ¬ resetAsserted s ∧ s.busy = false ∧ s.awaiting = true) ∧
    (let s := runningStream [];
      ¬ resetAsserted s ∧ s.busy = true ∧ s.agenda = [] ∧ (withTurn .idle s).agenda = .idle :: []) ∧
    (let s := State.reset;
      ¬ resetAsserted s ∧ s.busy = false ∧ s.awaiting = false ∧ s.agenda = [] ∧ (withTurn .idle s).agenda = .idle :: []) ∧
    (let s := withTurn (.memory 0x1000 (some 0)) (runningStream []);
      ¬ resetAsserted s ∧ s.busy = true ∧ s.agenda = .memory 0x1000 (some 0) :: []) ∧
    (let s := withTurn (.memory 0x1000 none) State.reset;
      ¬ resetAsserted s ∧ s.awaiting = false ∧ s.agenda = .memory 0x1000 none :: []) := by
  simp [resetAsserted, withTurn, runningStream, streamState, configured, State.reset]

/-- The state after an E_SEQ, whose host then writes INIT sha256 (V32). -/
theorem witness_ErrorIsSticky :
    let s := withTurn (.write 64 0x000 0x1) { State.reset with err := .seq, errcmd := 0x2 }
    s.err ≠ .none ∧ Instr.next ≠ .nop ∧ Instr.next ≠ .initSha256 ∧ Instr.next ≠ .initSha512 ∧ Instr.next ≠ .initSha384 ∧
      (¬ ∃ i, decode 0x7 = .instr i) ∧ 0x018 % 8 = 0 ∧ 0x018 ≠ 0 ∧
      s.Inv ∧ ∃ t, step s = .next t ∧ t.err = .none := by
  refine ⟨by decide, by decide, by decide, by decide, by decide, illegal_word (why := .opcode) (by decide), by decide,
    by decide, ?_, _, rfl, rfl⟩
  constructor <;> decide +kernel

theorem witness_ResetStepLeavesTheResetState :
    ({ runningStream [] with rst := [true] } : State).rst = true :: [] ∧ (runningStream []).awaiting = false :=
  ⟨rfl, rfl⟩

theorem witness_ResetMeetsTheInvariant : ({ State.reset with agenda := [.idle] } : State).atReset :=
  ⟨[], _, _, [.idle], [], by decide, rfl⟩

theorem witness_EveryStepKeepsTheInvariant :
    (withTurn (.write 64 0x000 0x1) State.reset).Inv ∧
      ∃ t, step (withTurn (.write 64 0x000 0x1) State.reset) = .next t := by
  refine ⟨?_, _, rfl⟩
  constructor <;> decide +kernel

theorem witness_NoRunFromResetRaisesInvariantOrResource :
    (withTurn (.write 64 0x000 0x4) State.reset).atReset ∧
      ∃ t, core.run 1 (withTurn (.write 64 0x000 0x4) State.reset) = .next t ∧ t.err = .seq :=
  ⟨⟨[], _, _, [.write 64 0x000 0x4], [], by decide, rfl⟩, _, rfl, by decide +kernel⟩

theorem witness_NopLeavesTheStateUnchanged :
    (0x0000000100000000 : BitVec 64).extractLsb 31 0 = 0 ∧ (0x0000000100000000 : BitVec 64).extractLsb 63 32 ≠ 0 := by
  decide

/-- The classes of R302: every code that the two clauses name. -/
theorem witness_ErrorsChangeExactlyTheirRecord :
    (ErrCode.illegal = .illegal ∨ ErrCode.illegal = .seq) ∧
      (ErrCode.length = .openFail ∨ ErrCode.length = .io ∨ ErrCode.length = .bus ∨ ErrCode.length = .length ∨
        ErrCode.length = .invariant ∨ ErrCode.length = .resource) := by decide

theorem witness_SequencingChecksRaiseSeq :
    (State.reset.err = .none ∧ State.reset.cfg = false ∧ State.reset.src = .none) ∧
    ((streamState .sha256 []).err = .none ∧ (streamState .sha256 []).src ≠ .none) ∧
    ((configured .sha512).err = .none ∧ (configured .sha512).cfg = true ∧ (configured .sha512).src = .none) := by
  decide +kernel

/-- V26: E_LENGTH, E_BUS past the top, a buserr on the partial block, and the largest buffer that ends at the top. -/
theorem witness_OpenBufFollowsItsPseudocode :
    (configured .sha256).cfg = true ∧ (configured .sha256).src = .none ∧ (configured .sha256).err = .none ∧
    2 ^ Alg.sha256.lenBits ≤ 8 * ((0xfffffffffffffff9 + 7) / 8) ∧
    2 ^ 64 < 0xfffffffffffffffe + (24 + 7) / 8 ∧ 8 * ((24 + 7) / 8) < 2 ^ Alg.sha256.lenBits ∧
    memRead [] [] 0 0x1000 3 = none ∧
    memRead abcState.mem [] 0 0x1000 3 = some [0x61, 0x62, 0x63] ∧ 0xfffffffffffffffd + (24 + 7) / 8 ≤ 2 ^ 64 := by
  decide +kernel

theorem witness_OpenBufCompletes :
    abcState.err = .none ∧ abcState.cfg = true ∧ abcState.src = .none ∧
    8 * messageBytes abcState.nbits.toNat < 2 ^ abcState.alg.lenBits ∧
    abcState.addr.toNat + messageBytes abcState.nbits.toNat ≤ 2 ^ 64 ∧
    (∀ i, i < messageBytes abcState.nbits.toNat → (abcState.mem.read (abcState.addr.toNat + i)).isSome = true) := by
  decide +kernel

theorem witness_OpenStreamFollowsItsPseudocode :
    (configured .sha512).err = .none ∧ (configured .sha512).cfg = true ∧ (configured .sha512).src = .none ∧
    (Answers.mk [true] false).pop.1 = true ∧ (configured .sha512).provider.opens.pop.1 = false := by decide +kernel

theorem witness_NextBufferDeliversInOrder :
    (let s := fullState (bytesAt 0x1000 64);
      s.err = .none ∧ s.cfg = true ∧ s.src = .buffer ∧ s.ps = .paddedSingleBlock ∧ s.fullrem ≠ 0 ∧
        memRead s.mem s.dirty s.draws s.bufpos.toNat s.alg.blockBytes = some (List.replicate 64 0x61)) ∧
    (let s := fullState (bytesAt 0x1000 63);
      s.err = .none ∧ s.fullrem ≠ 0 ∧ memRead s.mem s.dirty s.draws s.bufpos.toNat s.alg.blockBytes = none) ∧
    (∀ p ∈ [PaddingStatus.paddedSingleBlock, .paddedDoubleBlock, .doubleBlockFirstHalfEmitted],
      (tailState p).err = .none ∧ (tailState p).cfg = true ∧ (tailState p).src = .buffer ∧ (tailState p).fullrem = 0 ∧
        (tailState p).ps = p) := by decide +kernel

/-- V28: an answer of 64, 55, 56 and 63 bytes, an error, no answer, and a count that no longer fits. -/
theorem witness_NextStreamReadsInOrder :
    (∀ k ∈ [64, 55, 56, 63],
      let s := streamState .sha256 [.data (List.replicate k 0x61)];
      s.err = .none ∧ s.cfg = true ∧ s.src = .stream ∧ s.ps = .unpadded ∧ s.sopen = true ∧
      s.provider.streamRead 64
        = (.data (List.replicate k 0x61), { s.provider with reads := { s.provider.reads with listed := [] } }) ∧
      s.len.toNat + 8 * k < 2 ^ s.alg.lenBits) ∧
    55 ≤ Alg.sha256.blockBytes - Alg.sha256.lenBytes - 1 ∧ Alg.sha256.blockBytes - Alg.sha256.lenBytes ≤ 56 ∧
    (∀ r ∈ [ReadAnswer.ioerr, .later],
      let s := streamState .sha256 [r];
      s.provider.streamRead 64 = (r, { s.provider with reads := { s.provider.reads with listed := [] } })) ∧
    2 ^ Alg.sha256.lenBits ≤ (0xfffffffffffffe00 : BitVec 128).toNat + 8 * 64 := by decide +kernel

theorem witness_StreamReadGivesTheNextBytes :
    (streamState .sha256 [.data [1, 2, 3]]).provider.reads.listed = .data [1, 2, 3] :: [] ∧
      2 < [1, 2, 3].length ∧ [1, 2, 3].length ≤ 3 := by decide +kernel

/-- An error and a wait at the head of the list, and an empty list with each answer for ever. -/
theorem witness_StreamReadGivesTheNextBytes_other :
    (streamState .sha256 [.ioerr, .data []]).provider.reads.listed = .ioerr :: [.data []] ∧
    (streamState .sha256 [.later]).provider.reads.listed = .later :: [] ∧
    ∀ r ∈ [ReadAnswer.data [1], .ioerr, .later],
      (Provider.mk ⟨[], false⟩ ⟨[], r⟩ 0 0).reads.listed = [] ∧ (Provider.mk ⟨[], false⟩ ⟨[], r⟩ 0 0).reads.rest = r := by
  decide +kernel

theorem witness_NextStreamLengthOnlyBlock :
    let s := { streamState .sha512 [] with ps := .doubleBlockFirstHalfEmitted, sopen := false }
    s.err = .none ∧ s.cfg = true ∧ s.src = .stream ∧ s.ps = .doubleBlockFirstHalfEmitted ∧ s.sopen = false := by
  decide +kernel

theorem witness_NextSignalsExhaustionAgain :
    (let s := tailState .allPaddingEmitted;
      s.err = .none ∧ s.cfg = true ∧ s.ps = .allPaddingEmitted ∧ s.src = .buffer ∧ s.fullrem = 0) ∧
    (let s := { streamState .sha512 [] with ps := .allPaddingEmitted, sopen := false };
      s.err = .none ∧ s.cfg = true ∧ s.ps = .allPaddingEmitted ∧ s.src = .stream ∧ s.sopen = false) := by decide +kernel

theorem witness_ImpossiblePaddingStateRaisesInvariant :
    (let s := tailState .unpadded;
      s.err = .none ∧ s.cfg = true ∧ s.src = .buffer ∧ s.ps = .unpadded) ∧
    (let s := { tailState .allPaddingEmitted with fullrem := 1 };
      s.src = .buffer ∧ s.fullrem ≠ 0 ∧ s.ps = .allPaddingEmitted) ∧
    (let s := { streamState .sha256 [] with ps := .paddedDoubleBlock, sopen := false };
      s.err = .none ∧ s.cfg = true ∧ s.src = .stream ∧ s.ps = .paddedDoubleBlock) ∧
    (let s := { streamState .sha256 [] with ps := .allPaddingEmitted };
      s.src = .stream ∧ s.sopen = true ∧ s.ps ≠ .unpadded) ∧
    (let s := { streamState .sha256 [] with sopen := false };
      s.src = .stream ∧ s.sopen = false ∧ s.ps = .unpadded) := by decide +kernel

theorem witness_ExhaustionLastsUntilInitOrReset :
    let s := { tailState .allPaddingEmitted with exh := true }
    s.Inv ∧ s.exh = true ∧ ∃ t, step s = .next t := by
  refine ⟨?_, rfl, _, rfl⟩
  constructor <;> decide +kernel

theorem witness_CompressFoldsTheBlock :
    State.reset.err = .none ∧ State.reset.cfg = false ∧
    ∀ a ∈ [Alg.sha256, .sha512, .sha384], (configured a).err = .none ∧ (configured a).cfg = true ∧ (configured a).alg = a := by
  decide +kernel

theorem witness_RunSetsBusy :
    (streamState .sha384 []).err = .none ∧ (streamState .sha384 []).cfg = true ∧ (streamState .sha384 []).src ≠ .none := by
  decide +kernel

/-- A RunStep that waits, one that fails, one that finds the source exhausted, and one that compresses a block, each as the
first of its NEXT and as one that goes on after a wait. -/
theorem witness_RunStepIsNextThenCompress :
    (∀ w ∈ [false, true], ∀ r ∈ [ReadAnswer.later, .ioerr, .data [1]],
      let s := { runningStream [r] with awaiting := w };
      s.busy = true ∧ s.cfg = true ∧ s.src ≠ .none ∧ s.err = .none) ∧
    (stateOf (exec .next (runningStream [.later]))).map (·.awaiting) = some true ∧
    (stateOf (exec .next (runningStream [.ioerr]))).map (fun t => (t.awaiting, t.err)) = some (false, .io) ∧
    (stateOf (exec .next (runningStream [.data [1]]))).map (fun t => (t.awaiting, t.err, t.exh))
      = some (false, .none, false) ∧
    (stateOf (exec .next { runningStream [] with ps := .allPaddingEmitted, sopen := false })).map
      (fun t => (t.awaiting, t.err, t.exh)) = some (false, .none, true) := by decide +kernel

/-- A write and a read during a RUN, at a step whose reset sample is false and at one with no sample. -/
theorem witness_WritesAreHeldWhileBusy :
    ∀ rst ∈ [[], [false, true]], ¬ resetAsserted { runningStream [] with rst := rst } ∧ (runningStream []).busy = true ∧
      (withTurn (.write 64 0x000 0x1) { runningStream [] with rst := rst }).agenda = .write 64 0x000 0x1 :: [] ∧
      (withTurn (.read 64 (8 * 7)) { runningStream [] with rst := rst }).agenda = .read 64 (8 * 7) :: [] := by
  simp [resetAsserted, withTurn, runningStream]

theorem abc_held : holdsMessage abcState.mem abcState.addr.toNat [0x61, 0x62, 0x63] := by
  unfold holdsMessage
  decide +kernel

theorem witness_RunHashesTheBuffer :
    abcState.busy = false ∧ abcState.awaiting = false ∧ abcState.agenda = [] ∧ abcState.rst = [] ∧
    messageBytes abcState.nbits.toNat = [(0x61 : Byte), 0x62, 0x63].length ∧
    lengthField Config.nonalignedLengthField abcState.nbits.toNat = 24 ∧ 24 < 2 ^ Alg.sha256.lenBits ∧
    abcState.addr.toNat + [(0x61 : Byte), 0x62, 0x63].length ≤ 2 ^ 64 ∧
    holdsMessage abcState.mem abcState.addr.toNat [0x61, 0x62, 0x63] :=
  ⟨rfl, rfl, rfl, rfl, by decide, by decide, by decide, by decide, abc_held⟩

/-- A provider that opens and then gives "abc". -/
def abcProvider : State :=
  { State.reset with provider :=
    { opens := ⟨[true], false⟩, reads := ⟨[.data [0x61, 0x62, 0x63]], .data []⟩, opened := 0, closed := 0 } }

theorem witness_RunHashesTheStream :
    abcProvider.busy = false ∧ abcProvider.awaiting = false ∧ abcProvider.agenda = [] ∧ abcProvider.rst = [] ∧
    abcProvider.provider.opens.pop.1 = true ∧
    abcProvider.provider.reads = { listed := [.data [0x61, 0x62, 0x63]], rest := .data [] } ∧
    8 * [(0x61 : Byte), 0x62, 0x63].length < 2 ^ Alg.sha384.lenBits :=
  ⟨rfl, rfl, rfl, rfl, rfl, rfl, by decide⟩

theorem witness_BufferAndStreamGiveTheSameDigest :
    (abcState.busy = false ∧ abcState.awaiting = false ∧ abcState.agenda = [] ∧ abcState.rst = [] ∧
      abcState.nbits.toNat = 8 * [(0x61 : Byte), 0x62, 0x63].length ∧
      abcState.addr.toNat + [(0x61 : Byte), 0x62, 0x63].length ≤ 2 ^ 64 ∧
      holdsMessage abcState.mem abcState.addr.toNat [0x61, 0x62, 0x63]) ∧
    (abcProvider.busy = false ∧ abcProvider.awaiting = false ∧ abcProvider.agenda = [] ∧ abcProvider.rst = [] ∧
      abcProvider.provider.opens.pop.1 = true ∧
      abcProvider.provider.reads = { listed := [.data [0x61, 0x62, 0x63]], rest := .data [] }) ∧
    8 * [(0x61 : Byte), 0x62, 0x63].length < 2 ^ Alg.sha256.lenBits :=
  ⟨⟨rfl, rfl, rfl, rfl, by decide, by decide, abc_held⟩, ⟨rfl, rfl, rfl, rfl, rfl, rfl⟩, by decide⟩

theorem witness_SilentProviderHangsTheRun :
    let s := withTurn (.write 64 0x018 5) { runningStream [] with
      provider := { opens := ⟨[], false⟩, reads := { listed := [], rest := .later }, opened := 1, closed := 0 } }
    s.busy = true ∧ s.src = .stream ∧ s.ps = .unpadded ∧ s.sopen = true ∧ s.rst = [] ∧
    s.provider.reads = { listed := [], rest := .later } ∧ s.agenda = .write 64 0x018 5 :: [] :=
  ⟨rfl, rfl, rfl, rfl, rfl, rfl, rfl⟩

/-- The largest run that fits: one block from LEN = 2^64 - 1024, in SHA-256 mode. -/
theorem witness_FullReadsKeepTheRunGoing :
    let s := { runningStream [] with
      len := 0xfffffffffffffc00
      provider := ⟨⟨[], false⟩, ⟨[], .data (List.replicate 64 0x61)⟩, 1, 0⟩ }
    s.busy = true ∧ s.src = .stream ∧ s.ps = .unpadded ∧ s.sopen = true ∧ s.exh = false ∧ s.rst = [] ∧ s.agenda = [] ∧
    s.provider.reads = { listed := [], rest := .data (List.replicate 64 0x61) } ∧
    (List.replicate 64 (0x61 : Byte)).length = s.alg.blockBytes ∧
    s.len.toNat + 8 * s.alg.blockBytes * 1 < 2 ^ s.alg.lenBits := by decide +kernel

/-- Registers that differ in their upper halves only, and a NEXT that delivers a block. -/
theorem witness_UpperHalvesAreIgnoredInSha256 :
    (∀ i : Fin 8, lo (initVector .sha256)[i] = lo ((initVector .sha256).map (· ||| 0xdeadbeef00000000))[i]) ∧
    (∀ j : Fin 16, lo abcBlock[j] = lo (abcBlock.map (· ||| 0xffffffff00000000))[j]) ∧
    (streamState .sha256 [.data [0x61]]).alg = .sha256 ∧
    ∃ t, exec .next (streamState .sha256 [.data [0x61]]) = .next t ∧ t.m ≠ (streamState .sha256 [.data [0x61]]).m :=
  ⟨by decide +kernel, by decide +kernel, rfl, _, rfl, by decide +kernel⟩

theorem witness_NormalizeIsBigEndian :
    ∀ a ∈ [Alg.sha256, .sha512, .sha384], (List.replicate a.blockBytes (0x61 : Byte)).length = a.blockBytes := by
  decide +kernel

theorem witness_LengthFieldLandsInTheLastWords :
    ∀ a ∈ [Alg.sha256, .sha512, .sha384], (zeros (a.blockBytes - a.lenBytes)).length + a.lenBytes = a.blockBytes ∧
      2 ^ a.lenBits - 1 < 2 ^ a.lenBits := by decide +kernel

theorem witness_PaddingIsLongEnough : messageBytes 12 = [(0xab : Byte), 0xab].length ∧ messageBytes 0 = ([] : List Byte).length := by
  decide

theorem witness_HostReadGivesTheRegister :
    let s := withTurn (.read 64 0x0f8) (runningStream [])
    ¬ resetAsserted s ∧ s.awaiting = false ∧ 0x0f8 % 8 = 0 ∧ s.agenda = .read 64 0x0f8 :: [] := by
  simp [resetAsserted, withTurn, runningStream, streamState, configured, State.reset]

/-- The offsets of each clause: ADDR, NBITS, the first and the last H and M, the read-only ones, and beyond the window. -/
theorem witness_HostWriteStoresTheRegister :
    ∀ off ∈ [0x018, 0x020, 0x040, 0x078, 0x080, 0x0f8, 0x008, 0x010, 0x028, 0x030, 0x038, 0x100],
      let s := withTurn (.write 64 off 5) State.reset;
      ¬ resetAsserted s ∧ s.busy = false ∧ s.awaiting = false ∧ off % 8 = 0 ∧ off ≠ 0x000 ∧
        s.agenda = .write 64 off 5 :: [] := by
  simp [resetAsserted, withTurn, State.reset]

theorem witness_OnlyBadAccessesAreRefused :
    (let s := withTurn (.read 32 0x008) State.reset;
      ¬ resetAsserted s ∧ s.awaiting = false ∧ 32 ≠ 64 ∧ s.agenda = .read 32 0x008 :: []) ∧
    (let s := withTurn (.write 64 0x00c 0) State.reset;
      ¬ resetAsserted s ∧ s.busy = false ∧ s.awaiting = false ∧ 0x00c % 8 ≠ 0 ∧ s.agenda = .write 64 0x00c 0 :: []) := by
  simp [resetAsserted, withTurn, State.reset]

/-- A step that sets CFG and ALG (INIT sha512), and one that clears CFG (reset). -/
theorem witness_AlgAndCfgHaveOneWriter :
    (let s := withTurn (.write 64 0x000 0x101) State.reset;
      ∃ t, step s = .next t ∧ t.alg ≠ s.alg ∧ s.cfg = false ∧ t.cfg = true) ∧
    (let s := { configured .sha256 with rst := [true] };
      ∃ t, step s = .next t ∧ s.cfg = true ∧ t.cfg = false) :=
  ⟨⟨_, rfl, by decide, rfl, rfl⟩, _, rfl, rfl, rfl⟩

theorem witness_CommandsKeepOperandsAndMemory : ∃ t, exec .openBuf abcState = .next t ∧ t.err = .none :=
  ⟨_, rfl, by decide +kernel⟩

theorem witness_PadderCommandsFrame :
    (abcState.err = .none ∧ ∃ t, exec .openBuf abcState = .next t ∧ t.err = .none) ∧
    (let s := { configured .sha256 with provider := abcProvider.provider };
      s.err = .none ∧ ∃ t, exec .openStream s = .next t ∧ t.err = .none) ∧
    (let s := fullState (bytesAt 0x1000 64);
      s.err = .none ∧ ∃ t, exec .next s = .next t ∧ t.err = .none ∧ s.src = .buffer ∧ s.ps ≠ .allPaddingEmitted) ∧
    (let s := { streamState .sha256 [] with ps := .allPaddingEmitted, sopen := false };
      s.err = .none ∧ ∃ t, exec .next s = .next t ∧ t.err = .none ∧ s.src = .stream ∧ s.ps = .allPaddingEmitted) :=
  ⟨⟨rfl, _, rfl, by decide +kernel⟩, ⟨rfl, _, rfl, by decide +kernel⟩,
    ⟨rfl, _, rfl, by decide +kernel, rfl, by decide⟩, ⟨rfl, _, rfl, by decide +kernel, rfl, rfl⟩⟩

theorem witness_ControlCommandsFrame :
    (State.reset.err = .none ∧ ∃ t, exec .initSha512 State.reset = .next t ∧ t.err = .none) ∧
    ((configured .sha256).err = .none ∧ ∃ t, exec .compress (configured .sha256) = .next t ∧ t.err = .none) ∧
    ((streamState .sha256 []).err = .none ∧ ∃ t, exec .run (streamState .sha256 []) = .next t ∧ t.err = .none) :=
  ⟨⟨rfl, _, rfl, by decide +kernel⟩, ⟨rfl, _, rfl, by decide +kernel⟩, ⟨rfl, _, rfl, by decide +kernel⟩⟩

theorem witness_OpenSourceIgnoresAddrAndNbits :
    (Instr.next = .next ∨ Instr.next = .compress ∨ Instr.next = .run) ∧
      ∃ t, exec .next (fullState (bytesAt 0x1000 64)) = .next t := ⟨.inl rfl, _, rfl⟩

/-- A store to the first and to the last byte of the block still to be read, with a mark already set, and a NEXT that reads
the block, in which one byte is marked and one is not. -/
theorem witness_StoredBufferBytesAreFree :
    (let s := { fullState (bytesAt 0x1000 2) with dirty := [0x1001] };
      s.src = .buffer ∧ s.mem.wf = true ∧ s.bufpos.toNat ≤ (0x1000 : BitVec 64).toNat ∧
        (0x103f : BitVec 64).toNat < s.bufpos.toNat + s.fullrem.toNat * s.alg.blockBytes) ∧
    (let s := { fullState (bytesAt 0x1000 64) with dirty := [0x1001] };
      s.err = .none ∧ s.cfg = true ∧ s.src = .buffer ∧ s.ps = .paddedSingleBlock ∧ s.fullrem ≠ 0 ∧
        (∀ i, i < s.alg.blockBytes → (s.mem.read (s.bufpos.toNat + i)).isSome = true) ∧
        s.bufpos.toNat + 1 ∈ s.dirty ∧ s.bufpos.toNat + 0 ∉ s.dirty) := by decide +kernel

theorem witness_HostMemoryReadAfterChange : abcState.mem.wf = true ∧ 0x1001 < 2 ^ 64 := by decide +kernel

end Sys2Proof.Tests
end

section
/-! PROOFS. The illegal encodings (R104): which CMD writes the decoder refuses, and what issuing one does. -/

namespace Sys2Proof

/-- The decoder always answers: a value that is no command is illegal for some reason. -/
theorem not_exists_instr_iff {d : Decoded} : (¬ ∃ i, d = .instr i) ↔ ∃ why, d = .illegal why := by
  cases d <;> simp

/-- Class (e): of the four ALG fields of INIT only 3 is reserved (R103). -/
theorem decodeInit_illegal_iff {a : BitVec 2} : (∃ why, decodeInit a = .illegal why) ↔ a = 3 := by
  unfold decodeInit
  split_ifs with h0 h1 h2
  · simp [h0]
  · simp [h1]
  · simp [h2]
  · have h3 : a = 3 := by bv_omega
    simp [h3]

/-- Class (c), with the opcode of INIT, which decodeInit reads: no other command has one of these opcodes (R102). -/
theorem decodePlain_eq_none_iff {op : BitVec 8} : decodePlain op = none ↔ op = 0x01 ∨ 0x07 ≤ op.toNat := by
  unfold decodePlain
  split_ifs <;> simp only [true_iff, false_iff] <;> bv_omega

/-- The five classes of R104 in the fields of R101. -/
theorem decode_illegal_iff {v : BitVec 64} :
    (∃ why, decode v = .illegal why) ↔
      fieldHi v ≠ 0 ∨ fieldRsv v ≠ 0 ∨ 0x07 ≤ (fieldOp v).toNat ∨
        ((fieldOp v = 0x00 ∨ (0x02 ≤ (fieldOp v).toNat ∧ (fieldOp v).toNat ≤ 0x06)) ∧ fieldAlg v ≠ 0) ∨
        (fieldOp v = 0x01 ∧ fieldAlg v = 3) := by
  by_cases hHi : fieldHi v = 0#32
  case neg => simp [decode, hHi]
  by_cases hRsv : fieldRsv v = 0#22
  case neg => simp [decode, hHi, hRsv]
  by_cases hInit : fieldOp v = 1#8
  case pos => simp [decode, hHi, hRsv, hInit, decodeInit_illegal_iff]
  cases hPlain : decodePlain (fieldOp v) with
  | none =>
    have hOp : 0x07 ≤ (fieldOp v).toNat := (decodePlain_eq_none_iff.mp hPlain).resolve_left hInit
    simp [decode, hHi, hRsv, hInit, hPlain, hOp]
  | some i =>
    have hOp : ¬ 0x07 ≤ (fieldOp v).toNat := fun h => by
      simp [decodePlain_eq_none_iff.mpr (.inr h)] at hPlain
    have hRange : fieldOp v = 0#8 ∨ (0x02 ≤ (fieldOp v).toNat ∧ (fieldOp v).toNat ≤ 0x06) := by bv_omega
    by_cases hAlg : fieldAlg v = 0#2
    · simp [decode, hHi, hRsv, hInit, hPlain, hOp, hAlg]
    · simp [decode, hHi, hRsv, hInit, hPlain, hOp, hRange, hAlg]

end Sys2Proof

namespace Sys2Proof.Machine

/-- An illegal word takes the command error and nothing else (R303). -/
theorem issue_illegal {v : BitVec 64} {why : Illegal} (h : decode v = .illegal why) {s : State} (hs : s.err = .none) :
    issue v s = .next (commandError .illegal (v.truncate 32) s) := by
  simp [issue, h, hs]

/-- The word 0 is NOP (R102). -/
theorem issue_zero (s : State) : issue 0 s = .next s := by
  have hNop : decode 0 = .instr .nop := by decide
  simp only [issue, hNop, exec, execNop]

/-- Settles O3, from the decoder's five refusing branches and the rule of command errors. -/
theorem illegalWritesOnlyRecordTheError : Obligations.IllegalWritesOnlyRecordTheError := by
  unfold Obligations.IllegalWritesOnlyRecordTheError
  refine ⟨fun v => not_exists_instr_iff.trans decode_illegal_iff, ?_, issue_zero⟩
  intro v s hIllegal hs
  obtain ⟨why, h⟩ := not_exists_instr_iff.mp hIllegal
  have hWord : v.truncate 32 = v.extractLsb 31 0 := BitVec.setWidth_eq_extractLsb' (by decide)
  rw [issue_illegal h hs, hWord]
  rfl

end Sys2Proof.Machine
end

section
/-! PROOFS. NEXT after the last message bytes: the length-only block of a closed stream (R142) and exhaustion (R143). -/

namespace Sys2Proof.Machine

/-- NEXT on an open source without an error is the pseudocode of R139 after its E_SEQ check. -/
theorem exec_next_of_source {s : State} (herr : s.err = .none) (hcfg : s.cfg = true) (hsrc : s.src ≠ .none) :
    exec .next s = .next (nextBlock (encode .next) s).state := by
  simp [exec, execNext, unlessError, herr, hcfg, hsrc]

/-- Which PaddingStatus R144 allows a closed stream. -/
theorem invariantBroken_closedStream {s : State} (hsrc : s.src = .stream) (hopen : s.sopen = false) :
    invariantBroken s = false ↔ s.ps = .doubleBlockFirstHalfEmitted ∨ s.ps = .allPaddingEmitted := by
  cases hps : s.ps <;> simp [invariantBroken, hsrc, hopen, hps]

/-- Which PaddingStatus R144 allows a buffer with no full block left. -/
theorem invariantBroken_readBuffer {s : State} (hsrc : s.src = .buffer) (hfull : s.fullrem = 0) :
    invariantBroken s = false ↔ s.ps ≠ .unpadded := by
  simp [invariantBroken, hsrc, hfull]

/-- A closed stream that still owes its length field delivers the length-only block (R142). -/
theorem nextBlock_lengthOnly (word : Word32) {s : State} (hsrc : s.src = .stream) (hopen : s.sopen = false)
    (hps : s.ps = .doubleBlockFirstHalfEmitted) :
    nextBlock word s = .done (deliver (streamLengthBlock s.alg s.len.toNat) { s with ps := .allPaddingEmitted }) := by
  have hok : invariantBroken s = false := (invariantBroken_closedStream hsrc hopen).mpr (.inl hps)
  simp [nextBlock, nextStream, hok, hps, hsrc]

/-- After the last padding block the pseudocode only signals exhaustion (R143). -/
theorem nextBlock_exhausted (word : Word32) {s : State} (hok : invariantBroken s = false)
    (hps : s.ps = .allPaddingEmitted) : nextBlock word s = .done (exhausted s) := by
  simp [nextBlock, hok, hps]

/-- A source whose padding has all been delivered: what R144 leaves possible in each mode (R143). -/
def UsedUp (s : State) : Prop :=
  s.ps = .allPaddingEmitted ∧ ((s.src = .buffer ∧ s.fullrem = 0) ∨ (s.src = .stream ∧ s.sopen = false))

theorem UsedUp.exhausted {s : State} (h : UsedUp s) : UsedUp (exhausted s) := h

theorem UsedUp.src_ne_none {s : State} (h : UsedUp s) : s.src ≠ .none := by
  obtain ⟨_, ⟨hsrc, -⟩ | ⟨hsrc, -⟩⟩ := h <;> simp [hsrc]

theorem UsedUp.invariantBroken {s : State} (h : UsedUp s) : invariantBroken s = false := by
  obtain ⟨hps, ⟨hsrc, hfull⟩ | ⟨hsrc, hopen⟩⟩ := h
  · exact (invariantBroken_readBuffer hsrc hfull).mpr (by simp [hps])
  · exact (invariantBroken_closedStream hsrc hopen).mpr (.inr hps)

/-- NEXT on a used-up source signals exhaustion and changes nothing else (R143). -/
theorem exec_next_usedUp {s : State} (herr : s.err = .none) (hcfg : s.cfg = true) (h : UsedUp s) :
    exec .next s = .next (exhausted s) := by
  rw [exec_next_of_source herr hcfg h.src_ne_none, nextBlock_exhausted _ h.invariantBroken h.1]
  rfl

/-- Settles O23: the branch of R142 delivers the block without a StreamRead. -/
theorem nextStreamLengthOnlyBlock : Obligations.NextStreamLengthOnlyBlock := by
  unfold Obligations.NextStreamLengthOnlyBlock
  intro s herr hcfg hsrc hps hopen
  rw [exec_next_of_source herr hcfg (by simp [hsrc]), nextBlock_lengthOnly _ hsrc hopen hps]
  rfl

/-- Settles O24: a used-up source stays used up when NEXT signals its exhaustion, so a further NEXT is the same. -/
theorem nextSignalsExhaustionAgain : Obligations.NextSignalsExhaustionAgain := by
  unfold Obligations.NextSignalsExhaustionAgain
  intro s herr hcfg hps hmode
  have hUsed : UsedUp s := ⟨hps, hmode⟩
  exact ⟨exec_next_usedUp herr hcfg hUsed, exec_next_usedUp (s := exhausted s) herr hcfg hUsed.exhausted⟩

end Sys2Proof.Machine
end

section
/-! PROOFS. The big-endian normalizer (R181, R182): the bytes of a word, the words of a block, and the bytes of a value. -/

namespace Sys2Proof.Machine

/-- A block is 16 words (R181). -/
theorem Alg.blockBytes_eq_wordBytes (a : Alg) : a.blockBytes = 16 * a.wordBytes := by cases a <;> rfl

theorem Alg.wordBytes_le (a : Alg) : a.wordBytes ≤ 8 := by cases a <;> decide

/-- One more byte shifts the word up by a byte and stands at its low end. -/
theorem beWord_concat (bytes : List Byte) (b : Byte) :
    beWord (bytes ++ [b]) = beWord bytes <<< 8 ||| b.zeroExtend 64 := by
  simp [beWord]

/-- The low byte of a word with a byte shifted in is that byte. -/
theorem extractLsb'_shiftIn_zero (w : Reg) (b : Byte) : (w <<< 8 ||| b.zeroExtend 64).extractLsb' 0 8 = b := by
  ext i hi
  have : i < 64 := by omega
  simp [hi, this]

/-- Byte k + 1 of a word with a byte shifted in was byte k before, unless the shift pushes it out. -/
theorem extractLsb'_shiftIn_succ (w : Reg) (b : Byte) {k : Nat} (hk : k + 1 < 8) :
    (w <<< 8 ||| b.zeroExtend 64).extractLsb' (8 * (k + 1)) 8 = w.extractLsb' (8 * k) 8 := by
  ext i hi
  have hIn : 8 * (k + 1) + i < 64 := by omega
  have hUp : ¬ 8 * (k + 1) + i < 8 := by omega
  have hSub : 8 * (k + 1) + i - 8 = 8 * k + i := by omega
  have hByte : b.getLsbD (8 * (k + 1) + i) = false := b.getLsbD_of_ge _ (by omega)
  have hWord : w.getLsbD (8 * k + i) = w[8 * k + i] := BitVec.getLsbD_eq_getElem (by omega)
  simp [hIn, hUp, hSub, hByte, hWord]

/-- Byte i of the string is byte n - 1 - i of its word, counted from the least significant (R181). -/
theorem beWord_byte {bytes : List Byte} (hlen : bytes.length ≤ 8) {i : Nat} (hi : i < bytes.length) :
    (beWord bytes).extractLsb' (8 * (bytes.length - 1 - i)) 8 = bytes[i] := by
  induction bytes using List.reverseRecOn with
  | nil => simp at hi
  | append_singleton front b ih =>
    simp only [List.length_append, List.length_singleton] at hlen hi
    rw [beWord_concat, List.length_append, List.length_singleton, Nat.add_sub_cancel]
    obtain hFront | rfl : i < front.length ∨ i = front.length := by omega
    · have hPos : front.length - i = (front.length - 1 - i) + 1 := by omega
      rw [hPos, extractLsb'_shiftIn_succ _ _ (by omega), ih (by omega) hFront, List.getElem_append_left hFront]
    · rw [Nat.sub_self, Nat.mul_zero, extractLsb'_shiftIn_zero, List.getElem_concat_length rfl]

/-- Above its bytes a word is 0 (R181). -/
theorem beWord_getLsbD_of_le (bytes : List Byte) {k : Nat} (hk : 8 * bytes.length ≤ k) :
    (beWord bytes).getLsbD k = false := by
  induction bytes using List.reverseRecOn generalizing k with
  | nil => simp [beWord]
  | append_singleton front b ih =>
    simp only [List.length_append, List.length_singleton] at hk
    have hFront : (beWord front).getLsbD (k - 8) = false := ih (by omega)
    have hByte : b.getLsbD k = false := b.getLsbD_of_ge k (by omega)
    simp [beWord_concat, hFront, hByte]

/-- Word j of a block is the word of its bytes WB·j to WB·j + WB - 1 (R181). -/
theorem normalize_getElem (a : Alg) (block : List Byte) {j : Nat} (hj : j < 16) :
    (normalize a block)[j] = beWord ((block.drop (a.wordBytes * j)).take a.wordBytes) := by
  simp [normalize]

/-- Word j, one of the 16, ends inside the block. -/
theorem wordEnd_le_blockBytes (a : Alg) {j : Nat} (hj : j < 16) : a.wordBytes * j + a.wordBytes ≤ a.blockBytes := by
  calc a.wordBytes * j + a.wordBytes = a.wordBytes * (j + 1) := (Nat.mul_succ _ _).symm
    _ ≤ a.wordBytes * 16 := Nat.mul_le_mul_left _ hj
    _ = a.blockBytes := by rw [a.blockBytes_eq_wordBytes, Nat.mul_comm]

/-- Every one of the 16 slices of a whole block is a whole word. -/
theorem wordSlice_length {a : Alg} {block : List Byte} (hlen : block.length = a.blockBytes) {j : Nat} (hj : j < 16) :
    ((block.drop (a.wordBytes * j)).take a.wordBytes).length = a.wordBytes := by
  have hEnd := wordEnd_le_blockBytes a hj
  rw [List.length_take, List.length_drop, hlen]
  omega

/-- Settles O41: each word is the word of its slice of the block, whose bytes stand most significant first. -/
theorem normalizeIsBigEndian : Obligations.NormalizeIsBigEndian := by
  unfold Obligations.NormalizeIsBigEndian
  intro a block hlen j hj
  have hSlice := wordSlice_length hlen hj
  rw [normalize_getElem a block hj]
  refine ⟨fun i hi => ?_, fun hAlg => ?_⟩
  · have hEnd := wordEnd_le_blockBytes a hj
    have hIn : a.wordBytes * j + i < block.length := by omega
    have hByte := beWord_byte (hSlice.trans_le a.wordBytes_le) (hi.trans_eq hSlice.symm)
    simp only [List.getElem_take, List.getElem_drop, hSlice] at hByte
    exact ⟨hIn, hByte⟩
  · ext k hk
    have hAbove : 8 * ((block.drop (a.wordBytes * j)).take a.wordBytes).length ≤ 32 + k := by
      rw [hSlice, hAlg]; exact Nat.le_add_right 32 k
    have hZero := beWord_getLsbD_of_le _ hAbove
    simp [hZero]

/-- Settles O42, from the length and the bytes of BE_n(v): a right shift is a division by a power of two. -/
theorem bigEndianBytesOfAValue : Obligations.BigEndianBytesOfAValue := by
  unfold Obligations.BigEndianBytesOfAValue
  intro n v
  refine ⟨beBytes_length n v, fun i hi => ?_⟩
  rw [beBytes_getElem hi, BitVec.toNat_ofNat, Nat.shiftRight_eq_div_pow]

end Sys2Proof.Machine
end

section
/-! The word functions of the engines: the sigma functions as rotations of the library, Ch and Maj bit by bit (R200 to R202, R240 to R242). -/

namespace Sys2Proof.Machine

/-- The form of Σ0 and Σ1: three rotations (R201, R241). -/
theorem rotr_xor_rotr_xor_rotr {w l m n : Nat} (hl : l < w) (hm : m < w) (hn : n < w) (x : BitVec w) :
    rotr l x ^^^ rotr m x ^^^ rotr n x = x.rotateRight l ^^^ x.rotateRight m ^^^ x.rotateRight n := by
  rw [rotr_eq_rotateRight hl, rotr_eq_rotateRight hm, rotr_eq_rotateRight hn]

/-- The form of σ0 and σ1: two rotations and a shift (R202, R242). -/
theorem rotr_xor_rotr_xor_shr {w l m : Nat} (hl : l < w) (hm : m < w) (n : Nat) (x : BitVec w) :
    rotr l x ^^^ rotr m x ^^^ shr n x = x.rotateRight l ^^^ x.rotateRight m ^^^ x >>> n := by
  rw [rotr_eq_rotateRight hl, rotr_eq_rotateRight hm, shr]

/-- Settles O36: every amount is below the width, where ROTR is the library's rotation. -/
theorem sigmaFunctionsRotate : Obligations.SigmaFunctionsRotate := by
  unfold Obligations.SigmaFunctionsRotate
  refine ⟨fun x => ⟨?_, ?_, ?_, ?_⟩, fun x => ⟨?_, ?_, ?_, ?_⟩⟩
  · exact rotr_xor_rotr_xor_rotr (by decide) (by decide) (by decide) x
  · exact rotr_xor_rotr_xor_rotr (by decide) (by decide) (by decide) x
  · exact rotr_xor_rotr_xor_shr (by decide) (by decide) 3 x
  · exact rotr_xor_rotr_xor_shr (by decide) (by decide) 10 x
  · exact rotr_xor_rotr_xor_rotr (by decide) (by decide) (by decide) x
  · exact rotr_xor_rotr_xor_rotr (by decide) (by decide) (by decide) x
  · exact rotr_xor_rotr_xor_shr (by decide) (by decide) 7 x
  · exact rotr_xor_rotr_xor_shr (by decide) (by decide) 6 x

/-- Past the width both sides are 0: the complement sets no bit there. -/
theorem ch_getLsbD {w : Nat} (x y z : BitVec w) (i : Nat) :
    (ch x y z).getLsbD i = if x.getLsbD i then y.getLsbD i else z.getLsbD i := by
  by_cases hi : i < w
  · simp only [ch, BitVec.getLsbD_xor, BitVec.getLsbD_and, BitVec.getLsbD_not, hi]
    cases x.getLsbD i <;> simp
  · have hOut (v : BitVec w) : v.getLsbD i = false := v.getLsbD_of_ge i (Nat.le_of_not_lt hi)
    simp [hOut]

/-- Two exclusive ors of the pairwise products are the majority of three bits. -/
theorem xor_and_eq_majority (a b c : Bool) :
    ((a && b) ^^ (a && c) ^^ (b && c)) = decide (2 ≤ a.toNat + b.toNat + c.toNat) := by
  revert a b c
  decide

theorem maj_getLsbD {w : Nat} (x y z : BitVec w) (i : Nat) :
    (maj x y z).getLsbD i = decide (2 ≤ (x.getLsbD i).toNat + (y.getLsbD i).toNat + (z.getLsbD i).toNat) := by
  simp only [maj, BitVec.getLsbD_xor, BitVec.getLsbD_and, xor_and_eq_majority]

/-- Settles O37: the formulas are the definitions, and each bit of them is a function of the three bits at its place. -/
theorem choosesAndMajoritiesBitByBit : Obligations.ChoosesAndMajoritiesBitByBit := by
  unfold Obligations.ChoosesAndMajoritiesBitByBit
  intro w x y z i
  exact ⟨rfl, rfl, ch_getLsbD x y z i, maj_getLsbD x y z i⟩

end Sys2Proof.Machine
end

section
/-! PROOFS. The control commands NOP (R271) and COMPRESS (R273). -/

namespace Sys2Proof.Machine

/-- NOP does not look at ERR (R271). -/
theorem exec_nop (s : State) : exec .nop s = .next s := by
  simp only [exec, execNop]

/-- Settles O13: NOP has no check to fail, and a value with a high half is of the decoder's first illegal class. -/
theorem nopLeavesTheStateUnchanged : Obligations.NopLeavesTheStateUnchanged := by
  unfold Obligations.NopLeavesTheStateUnchanged
  refine ⟨exec_nop, fun v _ hHigh => ?_, by decide⟩
  have hHi : fieldHi v ≠ 0 := hHigh
  exact decode_illegal_iff.mpr (.inl hHi)

/-- Before any INIT, COMPRESS is a sequencing error (R273). -/
theorem exec_compress_of_unconfigured {s : State} (herr : s.err = .none) (hcfg : s.cfg = false) :
    exec .compress s = .next (commandError .seq (encode .compress) s) := by
  simp [exec, execCompress, unlessError, raiseError, herr, hcfg]

/-- After an INIT, COMPRESS is its arm for ALG, with no look at BV (R273). -/
theorem exec_compress_of_configured {s : State} (herr : s.err = .none) (hcfg : s.cfg = true) :
    exec .compress s = .next (compressBlock s) := by
  simp [exec, execCompress, unlessError, herr, hcfg]

/-- SHA-384 compresses as SHA-512 does (R250). -/
theorem foldBlock_of_wide {a : Alg} (ha : a = .sha512 ∨ a = .sha384) (h : Vector Reg 8) (m : Vector Reg 16) :
    foldBlock a h m = compress512 h m := by
  obtain rfl | rfl := ha <;> rfl

/-- Settles O27, from the check for an INIT and the two arms of the fold. -/
theorem compressFoldsTheBlock : Obligations.CompressFoldsTheBlock := by
  unfold Obligations.CompressFoldsTheBlock
  intro s herr
  refine ⟨fun hcfg => ?_, fun hcfg halg => ⟨_, rfl, ?_⟩, fun hcfg halg => ?_⟩
  · have hWord : encode .compress = 0x00000005 := by decide
    rw [exec_compress_of_unconfigured herr hcfg, hWord, commandError]
  · rw [exec_compress_of_configured herr hcfg, compressBlock, halg, foldBlock]
  · rw [exec_compress_of_configured herr hcfg, compressBlock, foldBlock_of_wide halg]

end Sys2Proof.Machine
end

section
/-! PROOFS. The legal encodings (R100 to R105): a command is read from its fields, a CMD write is made of them, and legality is a condition on them. -/

namespace Sys2Proof

/-- The INITs by their ALG field (R103). -/
theorem decodeInit_eq_instr_iff {a : BitVec 2} {i : Instr} :
    decodeInit a = .instr i ↔ i.opcode = 0x01 ∧ a = i.algField := by
  unfold decodeInit
  split_ifs with h0 h1 h2 <;> cases i <;> simp_all [Instr.opcode, Instr.algField]

/-- The other commands by their opcode (R102). -/
theorem decodePlain_eq_some_iff {op : BitVec 8} {i : Instr} (hop : op ≠ 0x01) :
    decodePlain op = some i ↔ op = i.opcode := by
  unfold decodePlain
  split_ifs <;> cases i <;> simp_all [Instr.opcode]

/-- Only INIT has an ALG field (R103). -/
theorem Instr.algField_eq_zero {i : Instr} (h : i.opcode ≠ 0x01) : i.algField = 0 := by
  cases i <;> simp_all [Instr.opcode, Instr.algField]

/-- A CMD write decodes to a command exactly when its four fields are the command's (R101, R105). -/
theorem decode_eq_instr_iff {v : BitVec 64} {i : Instr} :
    decode v = .instr i ↔
      fieldHi v = 0 ∧ fieldRsv v = 0 ∧ fieldOp v = i.opcode ∧ fieldAlg v = i.algField := by
  by_cases hHi : fieldHi v = 0#32
  case neg => simp [decode, hHi]
  by_cases hRsv : fieldRsv v = 0#22
  case neg => simp [decode, hHi, hRsv]
  by_cases hInit : fieldOp v = 1#8
  case pos => simp [decode, hHi, hRsv, hInit, decodeInit_eq_instr_iff, eq_comm]
  have hPlain := decodePlain_eq_some_iff (i := i) hInit
  cases hd : decodePlain (fieldOp v) with
  | none =>
    have hOp : ¬ fieldOp v = i.opcode := fun h => by simp [hPlain.mpr h] at hd
    simp [decode, hHi, hRsv, hInit, hd, hOp]
  | some j =>
    have hj : j = i ↔ fieldOp v = i.opcode := by simp [← hPlain, hd]
    have hDecode : decode v = if fieldAlg v = 0#2 then .instr j else .illegal .algField := by
      simp [decode, hHi, hRsv, hInit, hd]
    by_cases hOp : fieldOp v = i.opcode
    · have hAlg : i.algField = 0#2 := Instr.algField_eq_zero (hOp ▸ hInit)
      simp [hDecode, hHi, hRsv, hj.mpr hOp, hOp, hAlg]
    · have hji : ¬ j = i := mt hj.mp hOp
      split_ifs at hDecode <;> simp [hDecode, hji, hOp]

/-- The fields of a CMD write, most significant first, are the whole of it (R100). -/
theorem append_fields (v : BitVec 64) : fieldHi v ++ (fieldRsv v ++ fieldAlg v ++ fieldOp v) = v := by
  ext k hk
  simp only [fieldHi, fieldRsv, fieldAlg, fieldOp, BitVec.getElem_append, BitVec.getElem_extractLsb']
  split_ifs <;> rw [← BitVec.getLsbD_eq_getElem hk] <;> congr 1 <;> omega

/-- Settles O4: the decoder reads each command's own fields back, and a write is made of its four fields. -/
theorem decodeAndEncodeAgree : Obligations.DecodeAndEncodeAgree := by
  unfold Obligations.DecodeAndEncodeAgree
  refine ⟨fun i _ => ?_, fun v i h => ?_⟩
  · cases i <;> decide
  · obtain ⟨hHi, hRsv, hOp, hAlg⟩ := decode_eq_instr_iff.mp h
    rw [← append_fields v, hHi, hRsv, hOp, hAlg, cmdWrite, encode]

/-- The well-formedness check of a word is R101's condition on its fields. -/
theorem commandLegal_iff {v : BitVec 64} :
    commandLegal v = true ↔
      fieldHi v = 0 ∧ fieldRsv v = 0 ∧ (fieldOp v).toNat ≤ 6 ∧
        (fieldOp v ≠ 1 → fieldAlg v = 0) ∧ (fieldOp v = 1 → (fieldAlg v).toNat ≤ 2) := by
  have hHi : (fieldHi v).toNat = v.toNat / 2 ^ 32 := by
    rw [fieldHi, BitVec.extractLsb'_toNat, Nat.shiftRight_eq_div_pow, Nat.mod_eq_of_lt (by omega)]
  have hRsv : (fieldRsv v).toNat = v.toNat / 1024 % 2 ^ 22 := by
    rw [fieldRsv, BitVec.extractLsb'_toNat, Nat.shiftRight_eq_div_pow]
  have hOp : (fieldOp v).toNat = v.toNat % 256 := by
    rw [fieldOp, BitVec.extractLsb'_toNat, Nat.shiftRight_zero]
  have hAlg : (fieldAlg v).toNat = v.toNat / 256 % 4 := by
    rw [fieldAlg, BitVec.extractLsb'_toNat, Nat.shiftRight_eq_div_pow]
  simp only [commandLegal, ← hHi, ← hRsv, ← hOp, ← hAlg]
  by_cases h1 : fieldOp v = 1#8
  · simp [h1, ← BitVec.toNat_inj, and_assoc]
  · have hn : (fieldOp v).toNat ≠ 1 := by bv_omega
    simp [h1, hn, ← BitVec.toNat_inj, and_assoc]

/-- A CMD write is a command exactly by R101's condition on its fields: the five classes of R104 are its negation. -/
theorem exists_decode_eq_instr_iff {v : BitVec 64} :
    (∃ i, decode v = .instr i) ↔
      fieldHi v = 0 ∧ fieldRsv v = 0 ∧ (fieldOp v).toNat ≤ 6 ∧
        (fieldOp v ≠ 1 → fieldAlg v = 0) ∧ (fieldOp v = 1 → (fieldAlg v).toNat ≤ 2) := by
  rw [← not_iff_not, not_exists_instr_iff, decode_illegal_iff]
  generalize fieldHi v = hi, fieldRsv v = rsv, fieldOp v = op, fieldAlg v = alg
  by_cases h1 : op = 1#8
  · have h3 : alg = 3#2 ↔ ¬ alg.toNat ≤ 2 := by bv_omega
    simp [h1, h3]
    tauto
  · have hRange : op = 0#8 ∨ (2 ≤ op.toNat ∧ op.toNat ≤ 6) ↔ op.toNat ≤ 6 := by bv_omega
    have hLe : 7 ≤ op.toNat ↔ ¬ op.toNat ≤ 6 := by omega
    simp [h1, hRange, hLe]
    tauto

end Sys2Proof

namespace Sys2Proof.Machine

/-- Settles O2: both the decoder and the check are the condition of R101, and the rest is O3's rule for an illegal write. -/
theorem wordIsLegalExactlyByItsFields : Obligations.WordIsLegalExactlyByItsFields := by
  unfold Obligations.WordIsLegalExactlyByItsFields
  intro v
  refine ⟨exists_decode_eq_instr_iff, commandLegal_iff.trans exists_decode_eq_instr_iff.symm, fun hIllegal s hs => ?_⟩
  exact illegalWritesOnlyRecordTheError.2.1 v s hIllegal hs

/-- Settles O1: each of the eleven fixed words is decoded. -/
theorem legalWordsOfR102Decode : Obligations.LegalWordsOfR102Decode := by
  unfold Obligations.LegalWordsOfR102Decode
  decide

end Sys2Proof.Machine
end

section
/-! PROOFS. The moves of a step (R32, R270, R340, R348): what each turn of the host makes a step do, and which accesses are refused. -/

namespace Sys2Proof.Machine

/-! ### Which move a step is -/

theorem advance_of_busy {s : State} (hb : s.busy = true) : advance s = busyTurn s := by simp [advance, hb]

theorem advance_of_awaiting {s : State} (hb : s.busy = false) (ha : s.awaiting = true) : advance s = resumeNext s := by
  simp [advance, hb, ha]

theorem advance_of_free {s : State} (hb : s.busy = false) (ha : s.awaiting = false) : advance s = hostTurn s := by
  simp [advance, hb, ha]

theorem accessOk_iff {width off : Nat} : accessOk width off = true ↔ width = 64 ∧ off % 8 = 0 := by
  simp [accessOk]

theorem accessOk_eq_false {width off : Nat} (h : width ≠ 64 ∨ off % 8 ≠ 0) : accessOk width off = false := by
  rw [← Bool.not_eq_true, accessOk_iff]
  tauto

/-- A waiting NEXT goes on as NEXT does (R77). -/
theorem advance_resume {s : State} (hb : s.busy = false) (ha : s.awaiting = true) :
    advance s = exec .next { s with awaiting := false } := advance_of_awaiting hb ha

section
variable {s : State} {later : List Turn}

/-- Without a turn of the host a RUN takes a RunStep (R276). -/
theorem advance_runStep (hb : s.busy = true) (hag : s.agenda = []) : advance s = .next (runStep s) := by
  rw [advance_of_busy hb]
  simp only [busyTurn, hag]

theorem advance_runStep_idle (hb : s.busy = true) (hag : s.agenda = .idle :: later) :
    advance s = .next (runStep { s with agenda := later }) := by
  rw [advance_of_busy hb]
  simp only [busyTurn, hag]

/-- A write is held by a RUN, which takes a RunStep (R348). -/
theorem advance_runStep_held {width off : Nat} {v : BitVec 64} (hb : s.busy = true)
    (hag : s.agenda = .write width off v :: later) : advance s = .next (runStep s) := by
  rw [advance_of_busy hb]
  simp only [busyTurn, hag]

/-- Without a turn of the host an idle CORE does nothing (R317). -/
theorem advance_nil (hb : s.busy = false) (ha : s.awaiting = false) (hag : s.agenda = []) : advance s = .next s := by
  rw [advance_of_free hb ha]
  simp only [hostTurn, hag]

theorem advance_idle (hb : s.busy = false) (ha : s.awaiting = false) (hag : s.agenda = .idle :: later) :
    advance s = .next { s with agenda := later } := by
  rw [advance_of_free hb ha]
  simp only [hostTurn, hag]

theorem advance_memory {a : BitVec 64} {v : Option Byte} (hba : s.busy = true ∨ s.awaiting = false)
    (hag : s.agenda = .memory a v :: later) : advance s = .next (hostMemory a v { s with agenda := later }) := by
  by_cases hb : s.busy = true
  · rw [advance_of_busy hb]
    simp only [busyTurn, hag]
  · rw [advance_of_free (Bool.eq_false_iff.mpr hb) (hba.resolve_left hb)]
    simp only [hostTurn, hag]

/-- A host read is taken in a RUN and outside one alike (R32 (b), (g)). -/
theorem advance_read {width off : Nat} (hba : s.busy = true ∨ s.awaiting = false)
    (hag : s.agenda = .read width off :: later) : advance s = hostRead width off { s with agenda := later } := by
  by_cases hb : s.busy = true
  · rw [advance_of_busy hb]
    simp only [busyTurn, hag]
  · rw [advance_of_free (Bool.eq_false_iff.mpr hb) (hba.resolve_left hb)]
    simp only [hostTurn, hag]

/-- A host write is taken outside a RUN (R32). -/
theorem advance_write {width off : Nat} {v : BitVec 64} (hb : s.busy = false) (ha : s.awaiting = false)
    (hag : s.agenda = .write width off v :: later) : advance s = hostWrite width off v { s with agenda := later } := by
  rw [advance_of_free hb ha]
  simp only [hostTurn, hag]

theorem step_read {width off : Nat} (hr : ¬ resetAsserted s) (hba : s.busy = true ∨ s.awaiting = false)
    (hag : s.agenda = .read width off :: later) :
    step s = hostRead width off { s with rst := s.rst.tail, agenda := later } :=
  (step_of_not_reset hr).trans (advance_read hba hag)

theorem step_write {width off : Nat} {v : BitVec 64} (hr : ¬ resetAsserted s) (hb : s.busy = false)
    (ha : s.awaiting = false) (hag : s.agenda = .write width off v :: later) :
    step s = hostWrite width off v { s with rst := s.rst.tail, agenda := later } :=
  (step_of_not_reset hr).trans (advance_write hb ha hag)

end

/-- A write to any aligned register but CMD is the register's (R32). -/
theorem hostWrite_register {off : Nat} (hal : off % 8 = 0) (h0 : off ≠ 0) (v : BitVec 64) (s : State) :
    hostWrite 64 off v s = .next (writeReg off v s) := by
  simp [hostWrite, accessOk_iff.mpr ⟨rfl, hal⟩, h0]

/-- Settles O5: outside a RUN and a wait the step is the host's turn, and a write at offset 0 is a command issue. -/
theorem stepRunsTheDecodedCommand : Obligations.StepRunsTheDecodedCommand := by
  unfold Obligations.StepRunsTheDecodedCommand
  intro s v later hr hb ha hag
  have hStep : step s = issue v { s with rst := s.rst.tail, agenda := later } := by
    rw [step_write hr hb ha hag]
    simp [hostWrite, accessOk]
  refine ⟨hStep, fun i hi => ?_⟩
  rw [hStep, issue, hi]

/-- Settles O6: withFetchWord makes the row's CMD write the host's next turn, which O5 runs. -/
theorem fetchWordStepRunsTheRow : Obligations.FetchWordStepRunsTheRow := by
  unfold Obligations.FetchWordStepRunsTheRow
  intro s nbits w i hi
  have hDecode : decode (BitVec.ofNat 64 (w % 2 ^ nbits)) = .instr i := by
    unfold decodeTableWord at hi
    split at hi
    · rename_i j hj
      rw [hj, Option.some.inj hi]
    · cases hi
  have hNoReset : ¬ resetAsserted (s.withFetchWord nbits w) := by simp [resetAsserted, State.withFetchWord]
  exact (stepRunsTheDecodedCommand _ _ _ hNoReset rfl rfl rfl).2 i hDecode

/-- Settles O7: each of the six situations picks one branch of the step. -/
theorem stepWithoutAHostTurn : Obligations.StepWithoutAHostTurn := by
  unfold Obligations.StepWithoutAHostTurn
  intro s hr
  rw [step_of_not_reset hr]
  exact ⟨fun hb ha => advance_resume hb ha, fun hb hag => advance_runStep hb hag,
    fun _ hb hag => advance_runStep_idle hb hag, fun hb ha hag => advance_nil hb ha hag,
    fun _ hb ha hag => advance_idle hb ha hag, fun _ _ _ hba hag => advance_memory hba hag⟩

/-! ### The register window -/

theorem readReg_h (s : State) {i : Nat} (hi : i < 8) : readReg s (0x040 + 8 * i) = s.h[i] := by
  have hOff : (0x040 + 8 * i - 0x040) / 8 = i := by omega
  simp (disch := omega) only [readReg, if_neg, if_pos, hOff, Vector.getElem?_eq_getElem, Option.getD_some]

theorem readReg_m (s : State) {j : Nat} (hj : j < 16) : readReg s (0x080 + 8 * j) = s.m[j] := by
  have hOff : (0x080 + 8 * j - 0x080) / 8 = j := by omega
  simp (disch := omega) only [readReg, if_neg, if_pos, hOff, Vector.getElem?_eq_getElem, Option.getD_some]

theorem readReg_beyond (s : State) {off : Nat} (h : 0x100 ≤ off) : readReg s off = 0 := by
  simp (disch := omega) only [readReg, if_neg]

theorem writeReg_h (s : State) (v : BitVec 64) {i : Nat} (hi : i < 8) :
    writeReg (0x040 + 8 * i) v s = { s with h := s.h.set i v } := by
  have hOff : (0x040 + 8 * i - 0x040) / 8 = i := by omega
  have hSet : s.h.setIfInBounds i v = s.h.set i v := by
    ext
    simp [Vector.getElem_set, Vector.getElem_setIfInBounds]
  simp (disch := omega) only [writeReg, if_neg, if_pos, hOff, hSet]

theorem writeReg_m (s : State) (v : BitVec 64) {j : Nat} (hj : j < 16) :
    writeReg (0x080 + 8 * j) v s = { s with m := s.m.set j v } := by
  have hOff : (0x080 + 8 * j - 0x080) / 8 = j := by omega
  have hSet : s.m.setIfInBounds j v = s.m.set j v := by
    ext
    simp [Vector.getElem_set, Vector.getElem_setIfInBounds]
  simp (disch := omega) only [writeReg, if_neg, if_pos, hOff, hSet]

/-- The offsets at which a write is ignored (R32 (e), (f)). -/
theorem writeReg_ignored (s : State) (v : BitVec 64) {off : Nat} (h18 : off ≠ 0x018) (h20 : off ≠ 0x020)
    (h : off < 0x040 ∨ 0x100 ≤ off) : writeReg off v s = s := by
  simp (disch := omega) only [writeReg, if_neg]

/-- Settles O50: the turn is taken whatever BUSY is, and the register's offset picks its branch of the read. -/
theorem hostReadGivesTheRegister : Obligations.HostReadGivesTheRegister := by
  unfold Obligations.HostReadGivesTheRegister
  refine ⟨fun s off later hr ha hal hag => ?_, fun s => ?_⟩
  · rw [step_read hr (.inr ha) hag, hostRead, if_pos (accessOk_iff.mpr ⟨rfl, hal⟩)]
    rfl
  · exact ⟨rfl, rfl, rfl, rfl, rfl, rfl, rfl, fun i hi => readReg_h s hi, fun j hj => readReg_m s hj,
      fun off h => readReg_beyond s h⟩

/-- Settles O51: the write is the register's, which stores it or ignores it by its offset. -/
theorem hostWriteStoresTheRegister : Obligations.HostWriteStoresTheRegister := by
  unfold Obligations.HostWriteStoresTheRegister
  intro s off v later hr hb ha hal h0 hag
  have hStep := (step_write hr hb ha hag).trans (hostWrite_register hal h0 v _)
  rw [hStep]
  refine ⟨?_, ?_, ?_, ?_, fun h => ?_⟩
  · rintro rfl
    rfl
  · rintro rfl
    rfl
  · rintro i hi rfl
    rw [writeReg_h _ _ hi]
  · rintro j hj rfl
    rw [writeReg_m _ _ hj]
  · rw [writeReg_ignored _ _ (by omega) (by omega) (by omega)]

/-! ### Refusals -/

/-- An access whose turn it is: the outcome is a next state, or the access is a bad one and is refused. -/
def RefusedOnlyIfBad (s : State) (r : Result) : Prop :=
  (∃ t, r = .next t) ∨ ∃ width off, (width ≠ 64 ∨ off % 8 ≠ 0) ∧ r = .refused (.badAccess width off) ∧
    ∃ turn later, s.agenda = turn :: later ∧ (turn = .read width off ∨ ∃ v, turn = .write width off v)

theorem hostRead_refusedOnlyIfBad {s s' : State} {width off : Nat} {later : List Turn}
    (hag : s.agenda = .read width off :: later) : RefusedOnlyIfBad s (hostRead width off s') := by
  unfold hostRead
  split_ifs with hok
  · exact .inl ⟨_, rfl⟩
  · rw [accessOk_iff] at hok
    exact .inr ⟨width, off, by tauto, rfl, _, _, hag, .inl rfl⟩

theorem hostWrite_refusedOnlyIfBad {s s' : State} {width off : Nat} {v : BitVec 64} {later : List Turn}
    (hag : s.agenda = .write width off v :: later) : RefusedOnlyIfBad s (hostWrite width off v s') := by
  unfold hostWrite
  split_ifs with hok
  · unfold issue
    split
    · exact .inl (exec_next _ s')
    · exact .inl ⟨_, rfl⟩
  · exact .inl ⟨_, rfl⟩
  · rw [accessOk_iff] at hok
    exact .inr ⟨width, off, by tauto, rfl, _, _, hag, .inr ⟨v, rfl⟩⟩

theorem advance_refusedOnlyIfBad (s : State) : RefusedOnlyIfBad s (advance s) := by
  cases hb : s.busy with
  | true =>
    rw [advance_of_busy hb, busyTurn]
    split
    · exact hostRead_refusedOnlyIfBad ‹_›
    all_goals exact .inl ⟨_, rfl⟩
  | false =>
    cases ha : s.awaiting with
    | true =>
      rw [advance_of_awaiting hb ha]
      exact .inl (exec_next .next _)
    | false =>
      rw [advance_of_free hb ha, hostTurn]
      split
      · exact .inl ⟨_, rfl⟩
      · exact .inl ⟨_, rfl⟩
      · exact hostRead_refusedOnlyIfBad ‹_›
      · exact hostWrite_refusedOnlyIfBad ‹_›
      · exact .inl ⟨_, rfl⟩

/-- Settles O52: a bad access fails its check when its turn is taken, and no other branch of a step refuses. -/
theorem onlyBadAccessesAreRefused : Obligations.OnlyBadAccessesAreRefused := by
  unfold Obligations.OnlyBadAccessesAreRefused
  refine ⟨fun s width off later hr ha hbad hag => ?_, fun s width off v later hr hb ha hbad hag => ?_, fun s => ?_⟩
  · rw [step_read hr (.inr ha) hag]
    simp [hostRead, accessOk_eq_false hbad]
  · rw [step_write hr hb ha hag]
    simp [hostWrite, accessOk_eq_false hbad]
  · by_cases hr : resetAsserted s
    · obtain ⟨rest, hrst⟩ := List.head?_eq_some_iff.mp hr
      exact .inl ⟨_, by rw [step, hrst]⟩
    · rw [step_of_not_reset hr]
      exact advance_refusedOnlyIfBad _

end Sys2Proof.Machine
end

section
/-! PROOFS. The ends of NEXT and of a RunStep (R139 to R146, R276, R277): what each end can have changed, and what no command and no RunStep touches (R44, R45, R70, R347). -/

namespace Sys2Proof.Machine

/-! ### The commands past the common check (R270) -/

section
variable {s : State} (herr : s.err = .none)
include herr

theorem exec_openBuf :
    exec .openBuf s = .next (openBuf Config.nonalignedLengthField (encode .openBuf) s) := by
  rw [exec, execOpenBuf, unlessError_ok herr]

theorem exec_openStream : exec .openStream s = .next (openStream (encode .openStream) s) := by
  rw [exec, execOpenStream, unlessError_ok herr]

theorem exec_next_checked : exec .next s = .next (if s.cfg = false ∨ s.src = .none
    then commandError .seq (encode .next) s else (nextBlock (encode .next) s).state) := by
  rw [exec, execNext, unlessError_ok herr, raiseError_seq]

theorem exec_compress : exec .compress s = .next (if s.cfg = false
    then commandError .seq (encode .compress) s else compressBlock s) := by
  rw [exec, execCompress, unlessError_ok herr, raiseError_seq]

theorem exec_run : exec .run s = .next (if s.cfg = false ∨ s.src = .none
    then commandError .seq (encode .run) s else { s with busy := true }) := by
  rw [exec, execRun, unlessError_ok herr, raiseError_seq]

end

/-! ### The three ends of NEXT -/

theorem closeStream_eq (s : State) : closeStream s =
    { s with sopen := false, provider := if s.sopen then s.provider.streamClose else s.provider } := by
  unfold closeStream
  split_ifs with h
  · rfl
  · cases s
    simp_all

/-- All that a NEXT which delivers a block or signals exhaustion can have changed (R140 to R143). -/
inductive NextDone (s : State) : State → Prop
  | exhausted (hps : s.ps = .allPaddingEmitted) : NextDone s (exhausted s)
  | buffer (hps : s.ps ≠ .allPaddingEmitted) (hsrc : s.src = .buffer) (block p pos rem n) :
    NextDone s (deliver block { s with ps := p, bufpos := pos, fullrem := rem, draws := n })
  | stream (hps : s.ps ≠ .allPaddingEmitted) (hsrc : s.src ≠ .buffer) (block p len op prov) :
    NextDone s (deliver block { s with ps := p, len := len, sopen := op, provider := prov })

/-- NEXT delivers or signals exhaustion, or it is a source error after at most one answer of the provider (R304), or it
waits and has touched the provider's list only (R77). -/
theorem nextBlock_ends (word : Word32) (s : State) :
    (∃ t, nextBlock word s = .done t ∧ NextDone s t) ∨
    (∃ code listed, code ≠ .none ∧
      nextBlock word s = .failed (sourceError code word { s with provider.reads.listed := listed })) ∨
    (s.src ≠ .buffer ∧ ∃ listed, nextBlock word s = .waiting { s with provider.reads.listed := listed }) := by
  rcases nextBlock_cases word s with c | c | c | c | c | c | c
  · exact .inr (.inl ⟨_, s.provider.reads.listed, by decide, c.2⟩)
  · obtain ⟨_, hps, he⟩ := c
    exact .inl ⟨_, he, .exhausted hps⟩
  · obtain ⟨_, _, _, _, _, he⟩ := c
    exact .inr (.inl ⟨_, s.provider.reads.listed, by decide, he⟩)
  · obtain ⟨_, hps, hsrc, _, block, _, he⟩ := c
    exact .inl ⟨_, he, .buffer hps hsrc block s.ps _ _ _⟩
  · obtain ⟨_, hsrc, _, ⟨hps, he⟩ | ⟨hps, he⟩ | ⟨hps, he⟩⟩ := c <;>
      exact .inl ⟨_, he, .buffer (by simp [hps]) hsrc _ _ s.bufpos s.fullrem s.draws⟩
  · obtain ⟨_, hsrc, hps, listed, _, ⟨_, he⟩ | ⟨_, he⟩ | ⟨bytes, _, _, he⟩⟩ := c
    · exact .inr (.inr ⟨hsrc, listed, he⟩)
    · exact .inr (.inl ⟨_, listed, by decide, he⟩)
    · have hps' : s.ps ≠ .allPaddingEmitted := by simp [hps]
      rcases streamBytes_cases word bytes { s with provider.reads.listed := listed } with
        ⟨_, h2⟩ | ⟨_, _, h2⟩ | ⟨_, _, u, rfl, h2⟩
      · exact .inr (.inl ⟨_, listed, by decide, he.trans h2⟩)
      · exact .inl ⟨_, he.trans h2, .stream hps' hsrc _ s.ps _ s.sopen _⟩
      · rw [closeStream_eq] at h2
        exact .inl ⟨_, he.trans h2, .stream hps' hsrc _ _ _ false _⟩
  · obtain ⟨_, hsrc, _, hps, he⟩ := c
    exact .inl ⟨_, he, .stream hps hsrc _ _ s.len s.sopen s.provider⟩

theorem nextBlock_done {word : Word32} {s t : State} (h : nextBlock word s = .done t) : NextDone s t := by
  rcases nextBlock_ends word s with ⟨u, he, hu⟩ | ⟨_, _, _, he⟩ | ⟨_, _, he⟩
  · rw [he, NextEnd.done.injEq] at h
    exact h ▸ hu
  · simp [he] at h
  · simp [he] at h

theorem nextBlock_failed {word : Word32} {s t : State} (h : nextBlock word s = .failed t) :
    ∃ code listed, code ≠ .none ∧ t = sourceError code word { s with provider.reads.listed := listed } := by
  rcases nextBlock_ends word s with ⟨u, he, _⟩ | ⟨code, listed, hc, he⟩ | ⟨_, _, he⟩
  · simp [he] at h
  · rw [he, NextEnd.failed.injEq] at h
    exact ⟨code, listed, hc, h.symm⟩
  · simp [he] at h

/-- A completed NEXT leaves these registers whatever the source (R139 to R143). -/
theorem NextDone.frame {s t : State} (h : NextDone s t) :
    t.alg = s.alg ∧ t.cfg = s.cfg ∧ t.src = s.src ∧ t.busy = s.busy ∧ t.err = s.err ∧ t.errcmd = s.errcmd ∧
      t.addr = s.addr ∧ t.nbits = s.nbits ∧ t.h = s.h ∧ t.tail = s.tail ∧ t.mem = s.mem ∧
      t.awaiting = s.awaiting := by
  cases h <;> simp

/-- A completed NEXT on a buffer leaves the stream's registers (R140). -/
theorem NextDone.frame_buffer {s t : State} (h : NextDone s t) (hsrc : s.src = .buffer) :
    t.len = s.len ∧ t.sopen = s.sopen ∧ t.provider = s.provider := by
  cases h with
  | exhausted => simp
  | buffer => simp
  | stream _ hns => exact absurd hsrc hns

/-- A completed NEXT on a stream leaves the buffer's registers (R141, R142). -/
theorem NextDone.frame_stream {s t : State} (h : NextDone s t) (hsrc : s.src = .stream) :
    t.bufpos = s.bufpos ∧ t.fullrem = s.fullrem := by
  cases h with
  | exhausted => simp
  | buffer _ hb => simp [hsrc] at hb
  | stream => simp

/-- Only exhaustion sets EXH (R143). -/
theorem NextDone.exh {s t : State} (h : NextDone s t) (hps : s.ps ≠ .allPaddingEmitted) : t.exh = s.exh := by
  cases h with
  | exhausted hp => exact absurd hp hps
  | buffer => simp
  | stream => simp

theorem NextDone.eq_exhausted {s t : State} (h : NextDone s t) (hps : s.ps = .allPaddingEmitted) :
    t = Machine.exhausted s := by
  cases h with
  | exhausted => rfl
  | buffer hp => exact absurd hps hp
  | stream hp => exact absurd hps hp

/-! ### The command word of an error, and RunStep -/

/-- The end of the same NEXT, had it been issued by another command word (R43). -/
def NextEnd.withWord (word : Word32) : NextEnd → NextEnd
  | .done s => .done s
  | .failed s => .failed { s with errcmd := word }
  | .waiting s => .waiting s

theorem streamBytes_withWord (word word' : Word32) (bytes : List Byte) (s : State) :
    streamBytes word' bytes s = (streamBytes word bytes s).withWord word' := by
  unfold streamBytes
  split_ifs
  · rfl
  · dsimp only
    split_ifs <;> rfl

/-- The command word goes into ERRCMD and nowhere else. -/
theorem nextBlock_withWord (word word' : Word32) (s : State) :
    nextBlock word' s = (nextBlock word s).withWord word' := by
  unfold nextBlock
  split_ifs
  · rfl
  · rfl
  · unfold nextBuffer
    split_ifs
    · split <;> rfl
    · split <;> rfl
  · unfold nextStream
    split_ifs
    · dsimp only
      split
      · rfl
      · rfl
      · exact streamBytes_withWord word word' _ _
    · rfl

/-- Everything a RunStep can do with the end of its NEXT (R276, R277). -/
theorem runStep_cases (s : State) :
    (∃ t, nextBlock (encode .run) { s with awaiting := false } = .waiting t ∧
      runStep s = { t with awaiting := true }) ∨
    (∃ t, nextBlock (encode .run) { s with awaiting := false } = .failed t ∧ runStep s = { t with busy := false }) ∨
    (∃ t, nextBlock (encode .run) { s with awaiting := false } = .done t ∧ t.exh = true ∧
      runStep s = { t with busy := false }) ∨
    (∃ t, nextBlock (encode .run) { s with awaiting := false } = .done t ∧ t.exh = false ∧
      runStep s = compressBlock t) := by
  cases h : nextBlock (encode .run) { s with awaiting := false } with
  | waiting t => exact .inl ⟨t, rfl, by rw [runStep, h]⟩
  | failed t => exact .inr (.inl ⟨t, rfl, by rw [runStep, h]⟩)
  | done t =>
    cases hx : t.exh with
    | true => exact .inr (.inr (.inl ⟨t, rfl, hx, by simp [runStep, h, hx]⟩))
    | false => exact .inr (.inr (.inr ⟨t, rfl, hx, by simp [runStep, h, hx]⟩))

/-- Settles O29: NEXT and RunStep run the same pseudocode, with two command words; how it ended is read off the state. -/
theorem runStepIsNextThenCompress : Obligations.RunStepIsNextThenCompress := by
  unfold Obligations.RunStepIsNextThenCompress
  intro s t hb hcfg hsrc herr hNext
  rw [exec_next_of_source (s := { s with awaiting := false }) herr hcfg hsrc, Host.Outcome.next.injEq] at hNext
  have hWord := nextBlock_withWord (encode .next) (encode .run) { s with awaiting := false }
  cases hEnd : nextBlock (encode .next) { s with awaiting := false } with
  | waiting u =>
    rw [hEnd] at hNext hWord
    subst hNext
    have hRun : runStep s = { u with awaiting := true } := by rw [runStep, hWord]; rfl
    exact ⟨fun _ => hRun, fun h => by simp [NextEnd.state] at h, fun h => by simp [NextEnd.state] at h,
      fun h => by simp [NextEnd.state] at h⟩
  | failed u =>
    rw [hEnd] at hNext hWord
    subst hNext
    obtain ⟨code, listed, hCode, hu⟩ := nextBlock_failed hEnd
    have hErr : u.err ≠ .none := by simp [hu, hCode]
    have hWait : u.awaiting = false := by simp [hu]
    have hRun : runStep s = { u with busy := false, errcmd := encode .run } := by rw [runStep, hWord]; rfl
    exact ⟨fun h => by simp [NextEnd.state, hWait] at h, fun _ _ => hRun, fun _ h => absurd h hErr,
      fun _ h => absurd h hErr⟩
  | done u =>
    rw [hEnd] at hNext hWord
    subst hNext
    obtain ⟨-, hCfg, -, -, hErr, -, -, -, -, -, -, hWait⟩ := (nextBlock_done hEnd).frame
    have hErr : u.err = .none := hErr.trans herr
    have hRun : runStep s = if u.exh then { u with busy := false } else compressBlock u := by rw [runStep, hWord]; rfl
    refine ⟨fun h => by simp [NextEnd.state, hWait] at h, fun _ h => absurd hErr h, fun _ _ hx => ?_, fun _ _ hx => ?_⟩
    · exact hRun.trans (if_pos hx)
    · have hRun' : runStep s = compressBlock u := hRun.trans (if_neg (Bool.eq_false_iff.mp hx))
      rw [hRun']
      exact exec_compress_of_configured hErr (hCfg.trans hcfg)

/-! ### What no command touches -/

/-- The rest of the state is as it was: the operands, host memory and the host's side (R44, R45, R70). -/
structure SameHostSide (s t : State) : Prop where
  addr : t.addr = s.addr
  nbits : t.nbits = s.nbits
  mem : t.mem = s.mem
  agenda : t.agenda = s.agenda
  rst : t.rst = s.rst
  rdata : t.rdata = s.rdata

theorem SameHostSide.refl (s : State) : SameHostSide s s := ⟨rfl, rfl, rfl, rfl, rfl, rfl⟩

theorem sameHostSide_nextBlock (word : Word32) (s : State) : SameHostSide s (nextBlock word s).state := by
  obtain ⟨-, -, haddr, hnbits, -, hmem, hagenda, hrst, hrdata⟩ := nextBlock_frame word s
  exact ⟨haddr, hnbits, hmem, hagenda, hrst, hrdata⟩

/-- A RunStep has touched no more than its NEXT, but for H, BV, BUSY and the wait. -/
theorem runStep_state (s : State) :
    ∃ h bv busy, runStep s =
      { (nextBlock (encode .run) { s with awaiting := false }).state with h := h, bv := bv, busy := busy } := by
  rcases runStep_cases s with ⟨t, he, hr⟩ | ⟨t, he, hr⟩ | ⟨t, he, _, hr⟩ | ⟨t, he, _, hr⟩ <;> rw [he, hr]
  · exact ⟨t.h, t.bv, t.busy, rfl⟩
  · exact ⟨t.h, t.bv, false, rfl⟩
  · exact ⟨t.h, t.bv, false, rfl⟩
  · exact ⟨_, false, t.busy, rfl⟩

theorem sameHostSide_runStep (s : State) : SameHostSide s (runStep s) := by
  obtain ⟨h, bv, busy, hr⟩ := runStep_state s
  have hNext := sameHostSide_nextBlock (encode .run) { s with awaiting := false }
  rw [hr]
  exact { hNext with }

theorem runStep_alg_cfg (s : State) : (runStep s).alg = s.alg ∧ (runStep s).cfg = s.cfg := by
  obtain ⟨h, bv, busy, hr⟩ := runStep_state s
  obtain ⟨halg, hcfg, -⟩ := nextBlock_frame (encode .run) { s with awaiting := false }
  rw [hr]
  exact ⟨halg, hcfg⟩

/-- Everything OPEN_BUF can do (R136). -/
theorem openBuf_cases (mode : LengthFieldMode) (word : Word32) (s : State) :
    ((s.cfg = false ∨ s.src ≠ .none) ∧ openBuf mode word s = commandError .seq word s) ∨
    (∃ code, code ≠ .none ∧ openBuf mode word s = sourceError code word s) ∨
    (s.src = .none ∧ ∃ t lf full, openBuf mode word s = openedBuffer t lf full s) := by
  unfold openBuf
  split_ifs with hseq
  · exact .inl ⟨hseq, rfl⟩
  · push Not at hseq
    dsimp only
    split_ifs
    · exact .inr (.inl ⟨.length, by decide, rfl⟩)
    · exact .inr (.inl ⟨.bus, by decide, rfl⟩)
    · split
      · exact .inr (.inl ⟨.bus, by decide, rfl⟩)
      · exact .inr (.inr ⟨hseq.2, _, _, _, rfl⟩)

/-- Everything OPEN_STREAM can do (R138). -/
theorem openStream_cases (word : Word32) (s : State) :
    ((s.cfg = false ∨ s.src ≠ .none) ∧ openStream word s = commandError .seq word s) ∨
    (s.src = .none ∧ s.provider.opens.pop.1 = false ∧ openStream word s = sourceError .openFail word
      { s with provider := { s.provider with opens := s.provider.opens.pop.2 } }) ∨
    (s.src = .none ∧ s.provider.opens.pop.1 = true ∧ openStream word s = { s with
      provider := { s.provider with opens := s.provider.opens.pop.2, opened := s.provider.opened + 1 }
      src := .stream, sopen := true, ps := .unpadded, len := 0, blkcnt := 0, exh := false, bv := false }) := by
  unfold openStream
  split_ifs with hseq
  · exact .inl ⟨hseq, rfl⟩
  · push Not at hseq
    cases hpop : s.provider.opens.pop.1 with
    | false => exact .inr (.inl ⟨hseq.2, rfl, by simp [Provider.streamOpen, hpop]⟩)
    | true => exact .inr (.inr ⟨hseq.2, rfl, by simp [Provider.streamOpen, hpop]⟩)

theorem sameHostSide_sourceError (code : ErrCode) (word : Word32) (s : State) :
    SameHostSide s (sourceError code word s) := by
  constructor <;> simp

theorem sameHostSide_commandError (code : ErrCode) (word : Word32) (s : State) :
    SameHostSide s (commandError code word s) := ⟨rfl, rfl, rfl, rfl, rfl, rfl⟩

theorem sameHostSide_initialise (a : Alg) (s : State) : SameHostSide s (initialise a s) := by
  constructor <;> simp

theorem sameHostSide_unlessError {s t : State} (h : SameHostSide s t) : SameHostSide s (unlessError s t) := by
  unfold unlessError
  split_ifs
  · exact h
  · exact .refl s

theorem sameHostSide_exec {i : Instr} {s t : State} (h : exec i s = .next t) : SameHostSide s t := by
  cases i <;> cases h
  case nop => exact .refl s
  case initSha256 => exact sameHostSide_initialise _ s
  case initSha512 => exact sameHostSide_initialise _ s
  case initSha384 => exact sameHostSide_initialise _ s
  all_goals apply sameHostSide_unlessError
  case openBuf =>
    rcases openBuf_cases Config.nonalignedLengthField (encode .openBuf) s with ⟨_, he⟩ | ⟨code, _, he⟩ | ⟨_, t, lf, full, he⟩
    · exact he ▸ sameHostSide_commandError _ _ s
    · exact he ▸ sameHostSide_sourceError _ _ s
    · exact he ▸ ⟨rfl, rfl, rfl, rfl, rfl, rfl⟩
  case openStream =>
    rcases openStream_cases (encode .openStream) s with ⟨_, he⟩ | ⟨_, _, he⟩ | ⟨_, _, he⟩
    · exact he ▸ sameHostSide_commandError _ _ s
    · exact he ▸ { sameHostSide_sourceError _ _ _ with }
    · exact he ▸ ⟨rfl, rfl, rfl, rfl, rfl, rfl⟩
  case next =>
    split_ifs
    · exact sameHostSide_commandError _ _ s
    · exact sameHostSide_nextBlock _ s
  case compress =>
    split_ifs
    · exact sameHostSide_commandError _ _ s
    · exact ⟨rfl, rfl, rfl, rfl, rfl, rfl⟩
  case run =>
    split_ifs
    · exact sameHostSide_commandError _ _ s
    · exact ⟨rfl, rfl, rfl, rfl, rfl, rfl⟩

/-- Settles O54: no arm of exec and no end of a RunStep writes the operands, host memory or the host's side. -/
theorem commandsKeepOperandsAndMemory : Obligations.CommandsKeepOperandsAndMemory := by
  unfold Obligations.CommandsKeepOperandsAndMemory
  refine ⟨fun i s t h => ?_, fun s => ?_⟩
  · obtain ⟨haddr, hnbits, hmem, hagenda, hrst, hrdata⟩ := sameHostSide_exec h
    exact ⟨haddr, hnbits, fun _ => by rw [hmem], hagenda, hrst, hrdata⟩
  · obtain ⟨haddr, hnbits, hmem, hagenda, hrst, hrdata⟩ := sameHostSide_runStep s
    exact ⟨haddr, hnbits, fun _ => by rw [hmem], hagenda, hrst, hrdata⟩

/-- Settles O30: a RUN answers a write with a RunStep, which leaves the agenda, and takes a read. -/
theorem writesAreHeldWhileBusy : Obligations.WritesAreHeldWhileBusy := by
  unfold Obligations.WritesAreHeldWhileBusy
  intro s width off v later hr hb
  refine ⟨fun hag => ⟨?_, ?_⟩, fun hag => ?_⟩
  · exact (step_of_not_reset hr).trans (advance_runStep_held hb hag)
  · exact (sameHostSide_runStep _).agenda.trans hag
  · rw [step_read hr (.inl hb) hag, hostRead, if_pos (accessOk_iff.mpr ⟨rfl, Nat.mul_mod_right 8 off⟩)]
    rfl

end Sys2Proof.Machine
end

section
/-! PROOFS. The invariant of R58 along every run, and what a step keeps that is neither a reset nor an INIT: the error (R305), exhaustion (R37), ALG and CFG (R34). -/

namespace Sys2Proof.Machine

/-! ### Reset -/

/-- A CORE at reset meets the invariant, beside any canonical memory and any provider with no handle open. -/
theorem inv_resetRegisters {s : State} (hmem : s.mem.wf = true) (hprov : s.provider.opened = s.provider.closed) :
    ({ State.reset with
      mem := s.mem, draws := s.draws, provider := s.provider, agenda := s.agenda, rst := s.rst, rdata := s.rdata } :
        State).Inv where
  unconfigured _ := rfl
  noSource _ := ⟨rfl, rfl, rfl, rfl⟩
  bufferSource h := nomatch h
  bufferUnread h := nomatch h
  streamSource h := nomatch h
  exhaustedPs h := nomatch h
  busyRun h := nomatch h
  noErrorNoWord _ := rfl
  neverRaised := ⟨nofun, nofun⟩
  lenFits _ := show (0 : BitVec 128).toNat < 2 ^ 64 by decide
  bufferInRange h := nomatch h
  handles := hprov
  awaitingRead h := nomatch h
  dirtySource _ := rfl
  memory := hmem

theorem inv_atReset {s : State} (h : s.atReset) : s.Inv := by
  obtain ⟨mem, opens, reads, agenda, rst, hmem, rfl⟩ := h
  exact inv_resetRegisters (s := { State.reset with
    mem := mem, provider := ⟨opens, reads, 0, 0⟩, agenda := agenda, rst := rst }) hmem rfl

/-- Settles O10: reset leaves no source, no error and no handle, whatever the agents hold. -/
theorem resetMeetsTheInvariant : Obligations.ResetMeetsTheInvariant := by
  unfold Obligations.ResetMeetsTheInvariant
  exact ⟨inv_atReset ⟨[], _, _, [], [], rfl, rfl⟩, fun _ h => inv_atReset h⟩

/-- The reset step closes an open stream, so that no handle is left (R341). -/
theorem resetStep_closed (s : State) : (resetStep s).provider.closed = s.provider.closed + s.sopen.toNat := by
  cases h : s.sopen <;> simp [resetStep, h]

theorem resetStep_opened (s : State) : (resetStep s).provider.opened = s.provider.opened := by
  cases h : s.sopen <;> simp [resetStep, h]

theorem resetStep_opens (s : State) : (resetStep s).provider.opens = s.provider.opens := by
  cases h : s.sopen <;> simp [resetStep, h]

/-- Without a StreamRead in progress the reset step leaves the provider's answers (R340). -/
theorem resetStep_reads {s : State} (ha : s.awaiting = false) : (resetStep s).provider.reads = s.provider.reads := by
  cases h : s.sopen <;> simp [resetStep, h, ha]

theorem inv_resetStep {s : State} (h : s.Inv) : (resetStep s).Inv := by
  have hHandles : (resetStep s).provider.opened = (resetStep s).provider.closed := by
    rw [resetStep_opened, resetStep_closed]
    exact h.handles
  exact inv_resetRegisters (s := { resetStep s with draws := s.draws }) h.memory hHandles

/-- Every register of a CORE at reset reads 0 (R342). -/
theorem readReg_resetStep (s : State) (off : Nat) : readReg (resetStep s) off = 0 := by
  have hStatus : statusWord (resetStep s) = 0 := show statusWord State.reset = 0 by decide
  have hH (i : Nat) : (resetStep s).h[i]?.getD 0 = 0 := by
    simp [resetStep, State.reset, nullDigest, Vector.getElem?_replicate]
    split <;> rfl
  have hM (j : Nat) : (resetStep s).m[j]?.getD 0 = 0 := by
    simp [resetStep, State.reset, Vector.getElem?_replicate]
    split <;> rfl
  have hLenHi : (resetStep s).len.extractLsb' 64 64 = 0 := show (0 : BitVec 128).extractLsb' 64 64 = 0 by decide
  simp only [readReg, hStatus, hH, hM, hLenHi]
  split_ifs <;> rfl

/-- Settles O9: the reset step is the reset state but for the agents' fields. -/
theorem resetStepLeavesTheResetState : Obligations.ResetStepLeavesTheResetState := by
  unfold Obligations.ResetStepLeavesTheResetState
  intro s later hrst
  refine ⟨resetStep { s with rst := later }, by simp only [step, hrst], rfl, rfl, rfl, rfl, rfl, rfl, rfl, rfl, rfl, rfl,
    rfl, rfl, rfl, rfl, rfl, rfl, rfl, rfl, rfl, rfl, readReg_resetStep _, resetStep_closed _, resetStep_opened _,
    resetStep_opens _, fun ha => resetStep_reads ha, rfl, rfl, rfl⟩

/-! ### The moves of a step that is no reset and issues no INIT -/

/-- What such a step does, from the state with the host's turn and the reset sample taken. -/
inductive Move (s : State) : State → Prop
  | runStep (hb : s.busy = true) : Move s (runStep s)
  | resume {t} (hb : s.busy = false) (h : exec .next { s with awaiting := false } = .next t) : Move s t
  | command {t} (i : Instr) (hb : s.busy = false) (ha : s.awaiting = false) (hi : ∀ a, i ≠ initOf a)
      (h : exec i s = .next t) : Move s t
  | illegal (word : Word32) (hb : s.busy = false) (ha : s.awaiting = false) :
      Move s (unlessError s (commandError .illegal word s))
  | regWrite (off : Nat) (v : BitVec 64) : Move s (writeReg off v s)
  | read (x : Reg) : Move s { s with rdata := x }
  | memory (a : BitVec 64) (v : Option Byte) : Move s (hostMemory a v s)
  | idle : Move s s

theorem exec_initOf (a : Alg) (s : State) : exec (initOf a) s = .next (initialise a s) := by
  cases a <;> rfl

/-- A step is a reset, the issue of an INIT, or one of the moves. -/
theorem step_moves {s t : State} (h : step s = .next t) :
    (resetAsserted s ∧ ∃ rest, t = resetStep { s with rst := rest }) ∨
    (∃ ag a, issuesInit s ∧ t = initialise a { s with rst := s.rst.tail, agenda := ag }) ∨
    ∃ ag, Move { s with rst := s.rst.tail, agenda := ag } t := by
  rcases step_cases h with ⟨rest, hrst, ht⟩ | ⟨_, h⟩
  · exact .inl ⟨by simp [resetAsserted, hrst], rest, ht⟩
  right
  obtain ⟨ag, ⟨hb, rfl⟩ | ⟨hb, _, rfl, h⟩ | ⟨hb, ha, v, hag, h⟩ | ⟨_, _, off, v, _, _, rfl⟩ | ⟨off, rfl⟩ | ⟨a, v, rfl⟩ |
    ⟨_, rfl⟩⟩ := advance_cases h
  · exact .inr ⟨ag, .runStep hb⟩
  · exact .inr ⟨s.agenda, .resume hb h⟩
  · unfold issue at h
    split at h
    · rename_i i hi
      by_cases hInit : ∃ a, i = initOf a
      · obtain ⟨a, rfl⟩ := hInit
        have hv : v = cmdWrite (initOf a) := decodeAndEncodeAgree.2 v _ hi
        rw [exec_initOf, Host.Outcome.next.injEq] at h
        exact .inl ⟨ag, a, ⟨hb, ha, a, ag, hv ▸ hag⟩, h.symm⟩
      · exact .inr ⟨ag, .command i hb ha (fun a hi => hInit ⟨a, hi⟩) h⟩
    · cases h
      exact .inr ⟨ag, .illegal _ hb ha⟩
  · exact .inr ⟨ag, .regWrite off v⟩
  · exact .inr ⟨ag, .read _⟩
  · exact .inr ⟨ag, .memory a v⟩
  · exact .inr ⟨ag, .idle⟩

/-! ### Every step keeps the invariant -/

/-- A host write to a register touches nothing that the invariant speaks of. -/
theorem inv_writeReg {s : State} (h : s.Inv) (off : Nat) (v : BitVec 64) : (writeReg off v s).Inv := by
  unfold writeReg
  split_ifs
  · exact { h with }
  · exact { h with }
  · exact { h with }
  · exact { h with }
  · exact h

/-- A change of host memory keeps the canonical form, and marks bytes of an open buffer only (R75). -/
theorem inv_hostMemory {s : State} (h : s.Inv) (a : BitVec 64) (v : Option Byte) : (hostMemory a v s).Inv :=
  { h with
    dirtySource := fun hsrc => by
      have hUnread : unreadBufferByte s a.toNat = false := by
        have hsrc : s.src ≠ .buffer := hsrc
        simp [unreadBufferByte, hsrc]
      simpa [hostMemory, hUnread] using h.dirtySource hsrc
    memory := Memory.set_wf a.isLt v h.memory }

theorem inv_move {s t : State} (h : s.Inv) (hm : Move s t) : t.Inv := by
  cases hm with
  | runStep hb => exact inv_runStep h hb
  | resume hb he =>
    have hWait : ({ s with awaiting := false } : State).Inv := { h with awaitingRead := fun hx => nomatch hx }
    exact inv_exec hWait .next rfl hb he
  | command i hb ha _ he => exact inv_exec h i ha hb he
  | illegal word hb ha =>
    unfold unlessError
    split_ifs
    · exact inv_commandError h (.inr rfl) word hb ha
    · exact h
  | regWrite off v => exact inv_writeReg h off v
  | read x => exact inv_rdata h x
  | memory a v => exact inv_hostMemory h a v
  | idle => exact h

theorem inv_step {s t : State} (h : s.Inv) (hs : step s = .next t) : t.Inv := by
  rcases step_moves hs with ⟨_, rest, rfl⟩ | ⟨ag, a, ⟨hb, ha, _⟩, rfl⟩ | ⟨ag, hm⟩
  · exact inv_resetStep (inv_rst h rest)
  · exact inv_initialise (inv_agenda (inv_rst h s.rst.tail) ag) a ha hb
  · exact inv_move (inv_agenda (inv_rst h s.rst.tail) ag) hm

/-- Settles O11: the reset step, INIT and each of the other moves of a step keep the invariant. -/
theorem everyStepKeepsTheInvariant : Obligations.EveryStepKeepsTheInvariant := by
  unfold Obligations.EveryStepKeepsTheInvariant
  exact fun _ _ => inv_step

/-! ### Runs -/

theorem core_run_zero (s : State) : core.run 0 s = .next s := rfl

theorem core_run_succ {s t : State} (h : step s = .next t) (n : Nat) : core.run (n + 1) s = core.run n t := by
  have hCore : core.step s = .next t := h
  simp only [Host.Core.run, hCore]

/-- A run that goes on for n + 1 steps takes a step and goes on for n. -/
theorem core_run_succ_inv {n : Nat} {s u : State} (h : core.run (n + 1) s = .next u) :
    ∃ t, step s = .next t ∧ core.run n t = .next u := by
  simp only [Host.Core.run] at h
  split at h
  · exact ⟨_, ‹_›, h⟩
  · cases h
  · cases h

theorem inv_run {n : Nat} : ∀ {s t : State}, s.Inv → core.run n s = .next t → t.Inv := by
  induction n with
  | zero =>
    intro s t h hr
    rw [core_run_zero] at hr
    cases hr
    exact h
  | succ n ih =>
    intro s t h hr
    obtain ⟨u, hs, hr⟩ := core_run_succ_inv hr
    exact ih (inv_step h hs) hr

/-- Settles O12: the invariant holds at reset and along every run, and names both claims. -/
theorem noRunFromResetRaisesInvariantOrResource : Obligations.NoRunFromResetRaisesInvariantOrResource := by
  unfold Obligations.NoRunFromResetRaisesInvariantOrResource
  intro n s t hs hr
  have hInv : t.Inv := inv_run (inv_atReset hs) hr
  exact ⟨hInv.neverRaised.1, hInv.neverRaised.2, hInv.handles⟩

/-! ### The error is sticky -/

/-- With an error recorded only NOP, which does nothing, and INIT pass the common check (R305). -/
theorem exec_of_error {i : Instr} {s : State} (herr : s.err ≠ .none) (hi : ∀ a, i ≠ initOf a) : exec i s = .next s := by
  cases i
  case nop => exact exec_nop s
  case initSha256 => exact absurd rfl (hi .sha256)
  case initSha512 => exact absurd rfl (hi .sha512)
  case initSha384 => exact absurd rfl (hi .sha384)
  case openBuf => rw [exec, execOpenBuf, unlessError_sticky herr]
  case openStream => rw [exec, execOpenStream, unlessError_sticky herr]
  case next => rw [exec, execNext, unlessError_sticky herr]
  case compress => rw [exec, execCompress, unlessError_sticky herr]
  case run => rw [exec, execRun, unlessError_sticky herr]

/-- The invariant leaves no RUN and no waiting NEXT beside an error, so no move touches the error. -/
theorem move_of_error {s t : State} (h : s.Inv) (herr : s.err ≠ .none) (hm : Move s t) :
    t.err = s.err ∧ t.errcmd = s.errcmd := by
  cases hm with
  | runStep hb => exact absurd (h.busyRun hb).2.2 herr
  | resume hb he =>
    have he' : exec .next { s with awaiting := false } = .next { s with awaiting := false } :=
      exec_of_error herr fun a => by cases a <;> decide
    rw [he', Host.Outcome.next.injEq] at he
    subst he
    exact ⟨rfl, rfl⟩
  | command i _ _ hi he =>
    rw [exec_of_error herr hi, Host.Outcome.next.injEq] at he
    subst he
    exact ⟨rfl, rfl⟩
  | illegal word => rw [unlessError_sticky herr]; exact ⟨rfl, rfl⟩
  | regWrite off v => exact ⟨writeReg_err off v s, writeReg_errcmd off v s⟩
  | read x => exact ⟨rfl, rfl⟩
  | memory a v => exact ⟨rfl, rfl⟩
  | idle => exact ⟨rfl, rfl⟩

/-- Settles O8: the common check stops every command but NOP and INIT, and no other move of a step touches ERR or ERRCMD. -/
theorem errorIsSticky : Obligations.ErrorIsSticky := by
  unfold Obligations.ErrorIsSticky
  refine ⟨fun i s herr _ h256 h512 h384 => ?_, fun v s herr hIllegal => ?_, fun off v s _ hal h0 => ?_,
    fun s t hs herr hChange hInv => ?_⟩
  · exact exec_of_error herr fun a => by cases a <;> assumption
  · obtain ⟨why, hWhy⟩ := not_exists_instr_iff.mp hIllegal
    rw [issue, hWhy]
    exact congrArg Host.Outcome.next (unlessError_sticky herr _)
  · exact hostWrite_register hal h0 v s
  · rcases step_moves hs with ⟨hr, _⟩ | ⟨_, _, hInit, _⟩ | ⟨ag, hm⟩
    · exact .inl hr
    · exact .inr hInit
    · obtain ⟨hErr, hCmd⟩ := move_of_error (inv_agenda (inv_rst hInv s.rst.tail) ag) herr hm
      rcases hChange with hClear | hOther
      · exact absurd (hErr.symm.trans hClear) herr
      · exact absurd hCmd hOther

/-! ### Exhaustion lasts -/

/-- The invariant places an exhausted source after all its padding. -/
theorem inv_usedUp {s : State} (h : s.Inv) (hx : s.exh = true) : UsedUp s := by
  have hps := h.exhaustedPs hx
  refine ⟨hps, ?_⟩
  cases hsrc : s.src with
  | none =>
    obtain ⟨_, hExh, _⟩ := h.noSource hsrc
    simp [hx] at hExh
  | buffer =>
    refine .inl ⟨rfl, ?_⟩
    by_contra hf
    rcases h.bufferUnread hsrc hf with h1 | h1 <;> simp [hps] at h1
  | stream =>
    have hOpen := (h.streamSource hsrc).2
    exact .inr ⟨rfl, by simpa [hps] using hOpen⟩

/-- On a used-up source no command but INIT changes EXH: a second OPEN is out of sequence, and NEXT signals exhaustion
again. -/
theorem exec_keeps_exh {i : Instr} {s t : State} (hUsed : UsedUp s) (hx : s.exh = true) (hi : ∀ a, i ≠ initOf a)
    (h : exec i s = .next t) : t.exh = true := by
  by_cases herr : s.err = .none
  case neg =>
    rw [exec_of_error herr hi, Host.Outcome.next.injEq] at h
    exact h ▸ hx
  have hsrc := hUsed.src_ne_none
  cases i
  case nop => cases h; exact hx
  case initSha256 => exact absurd rfl (hi .sha256)
  case initSha512 => exact absurd rfl (hi .sha512)
  case initSha384 => exact absurd rfl (hi .sha384)
  case openBuf =>
    rw [exec_openBuf herr] at h; cases h
    simpa [openBuf, hsrc] using hx
  case openStream =>
    rw [exec_openStream herr] at h; cases h
    simpa [openStream, hsrc] using hx
  case next =>
    rw [exec_next_checked herr] at h; cases h
    split_ifs
    · exact hx
    · rw [nextBlock_exhausted _ hUsed.invariantBroken hUsed.1]
      rfl
  case compress =>
    rw [exec_compress herr] at h; cases h
    split_ifs <;> exact hx
  case run =>
    rw [exec_run herr] at h; cases h
    split_ifs <;> exact hx

theorem move_keeps_exh {s t : State} (h : s.Inv) (hx : s.exh = true) (hm : Move s t) : t.exh = true := by
  have hUsed := inv_usedUp h hx
  cases hm with
  | runStep =>
    have hNext : nextBlock (encode .run) { s with awaiting := false } = .done (exhausted { s with awaiting := false }) :=
      nextBlock_exhausted _ hUsed.invariantBroken hUsed.1
    simp [runStep, hNext]
  | resume _ he => exact exec_keeps_exh (s := { s with awaiting := false }) hUsed hx (fun a => by cases a <;> decide) he
  | command i _ _ hi he => exact exec_keeps_exh hUsed hx hi he
  | illegal word =>
    unfold unlessError
    split_ifs <;> exact hx
  | regWrite off v => exact (writeReg_exh off v s).trans hx
  | read x => exact hx
  | memory a v => exact hx
  | idle => exact hx

/-- Settles O26: the invariant makes an exhausted source a used-up one, on which every move keeps EXH. -/
theorem exhaustionLastsUntilInitOrReset : Obligations.ExhaustionLastsUntilInitOrReset := by
  unfold Obligations.ExhaustionLastsUntilInitOrReset
  intro s t hInv hx hs
  rcases step_moves hs with ⟨hr, _⟩ | ⟨_, _, hInit, _⟩ | ⟨ag, hm⟩
  · exact .inr (.inl hr)
  · exact .inr (.inr hInit)
  · exact .inl (move_keeps_exh (inv_agenda (inv_rst hInv s.rst.tail) ag) hx hm)

/-! ### ALG and CFG have one writer -/

/-- Only INIT and reset write ALG and CFG (R34). -/
theorem exec_alg_cfg {i : Instr} {s t : State} (hi : ∀ a, i ≠ initOf a) (h : exec i s = .next t) :
    t.alg = s.alg ∧ t.cfg = s.cfg := by
  by_cases herr : s.err = .none
  case neg =>
    rw [exec_of_error herr hi, Host.Outcome.next.injEq] at h
    exact h ▸ ⟨rfl, rfl⟩
  cases i
  case nop => cases h; exact ⟨rfl, rfl⟩
  case initSha256 => exact absurd rfl (hi .sha256)
  case initSha512 => exact absurd rfl (hi .sha512)
  case initSha384 => exact absurd rfl (hi .sha384)
  case openBuf =>
    rw [exec_openBuf herr] at h; cases h
    rcases openBuf_cases Config.nonalignedLengthField (encode .openBuf) s with ⟨_, he⟩ | ⟨_, _, he⟩ | ⟨_, _, _, _, he⟩ <;>
      simp [he]
  case openStream =>
    rw [exec_openStream herr] at h; cases h
    rcases openStream_cases (encode .openStream) s with ⟨_, he⟩ | ⟨_, _, he⟩ | ⟨_, _, he⟩ <;> simp [he]
  case next =>
    rw [exec_next_checked herr] at h; cases h
    obtain ⟨halg, hcfg, -⟩ := nextBlock_frame (encode .next) s
    split_ifs
    · exact ⟨rfl, rfl⟩
    · exact ⟨halg, hcfg⟩
  case compress =>
    rw [exec_compress herr] at h; cases h
    split_ifs <;> exact ⟨rfl, rfl⟩
  case run =>
    rw [exec_run herr] at h; cases h
    split_ifs <;> exact ⟨rfl, rfl⟩

theorem move_alg_cfg {s t : State} (hm : Move s t) : t.alg = s.alg ∧ t.cfg = s.cfg := by
  cases hm with
  | runStep => exact runStep_alg_cfg s
  | resume _ he => exact exec_alg_cfg (s := { s with awaiting := false }) (fun a => by cases a <;> decide) he
  | command i _ _ hi he => exact exec_alg_cfg hi he
  | illegal word =>
    unfold unlessError
    split_ifs <;> exact ⟨rfl, rfl⟩
  | regWrite off v => exact ⟨writeReg_alg off v s, writeReg_cfg off v s⟩
  | read x => exact ⟨rfl, rfl⟩
  | memory a v => exact ⟨rfl, rfl⟩
  | idle => exact ⟨rfl, rfl⟩

/-- Settles O53: reset clears CFG, INIT sets it, and every other move leaves ALG and CFG. -/
theorem algAndCfgHaveOneWriter : Obligations.AlgAndCfgHaveOneWriter := by
  unfold Obligations.AlgAndCfgHaveOneWriter
  intro s t hs
  rcases step_moves hs with ⟨hr, rest, rfl⟩ | ⟨ag, a, hInit, rfl⟩ | ⟨ag, hm⟩
  · exact ⟨fun _ => .inl hr, fun _ _ => hr, fun _ hSet => nomatch hSet⟩
  · exact ⟨fun _ => .inr hInit, fun _ hClear => by simp at hClear, fun _ _ => hInit⟩
  · obtain ⟨halg, hcfg⟩ := move_alg_cfg hm
    exact ⟨fun hne => absurd halg hne, fun hSet hClear => by simp [hcfg, hSet] at hClear,
      fun hClear hSet => by simp [hcfg, hClear] at hSet⟩

end Sys2Proof.Machine
end

section
/-! PROOFS. INIT, errors, the sequencing checks, RUN's issue step and the frames of the control commands (R271 to R274, R279, R303, R304); the packed view of STATUS (R33). -/

namespace Sys2Proof.Machine

/-! ### INIT and errors -/

/-- All that INIT does, in one update (R272). -/
theorem initialise_eq (a : Alg) (s : State) : initialise a s = { s with
    alg := a, cfg := true, h := initVector a, src := .none, ps := .unpadded, exh := false, bv := false, sopen := false,
    len := 0, blkcnt := 0, bufpos := 0, fullrem := 0, tail := Vector.replicate 256 0, err := .none, errcmd := 0,
    dirty := [],
    provider := if s.sopen then { s.provider with closed := s.provider.closed + 1 } else s.provider } := by
  rw [initialise, clearError, dropSource, closeStream_eq]
  rfl

/-- All that a source error does, in one update (R304). -/
theorem sourceError_eq (code : ErrCode) (word : Word32) (s : State) : sourceError code word s = { s with
    sopen := false
    provider := if s.sopen then { s.provider with closed := s.provider.closed + 1 } else s.provider
    h := nullDigest, src := .none, ps := .unpadded, exh := false, bv := false, bufpos := 0, fullrem := 0, busy := false
    dirty := [], err := code, errcmd := word } := by
  rw [sourceError, dropSource, closeStream_eq]
  rfl

/-- The words of IV256 in the 64-bit registers (R204, R8). -/
theorem initVector_sha256 : initVector .sha256 = #v[0x6a09e667, 0xbb67ae85, 0x3c6ef372, 0xa54ff53a,
    0x510e527f, 0x9b05688c, 0x1f83d9ab, 0x5be0cd19] := by decide

/-- Settles O14: the three INITs are one update, and their words decode. -/
theorem initLoadsTheIvAndClears : Obligations.InitLoadsTheIvAndClears := by
  unfold Obligations.InitLoadsTheIvAndClears
  intro s
  refine ⟨?_, ?_, ?_, by decide, by decide, by decide, by decide⟩
  · rw [exec, execInitSha256, initialise_eq, initVector_sha256]
  · rw [exec, execInitSha512, initialise_eq, initVector, iv512]
  · rw [exec, execInitSha384, initialise_eq, initVector, iv384]

/-- Settles O15: a code's class picks its update (R302). -/
theorem errorsChangeExactlyTheirRecord : Obligations.ErrorsChangeExactlyTheirRecord := by
  unfold Obligations.ErrorsChangeExactlyTheirRecord
  intro word s
  refine ⟨fun code hcode => ?_, fun code hcode => ?_⟩
  · rcases hcode with rfl | rfl <;> rfl
  · have hSource : raiseError code word s = sourceError code word s := by
      rcases hcode with rfl | rfl | rfl | rfl | rfl | rfl <;> rfl
    rw [hSource, sourceError_eq]
    rfl

/-! ### The sequencing checks -/

/-- The command words that errors record (R102). -/
theorem encode_openBuf : encode .openBuf = 0x00000002 := by decide
theorem encode_openStream : encode .openStream = 0x00000003 := by decide
theorem encode_next : encode .next = 0x00000004 := by decide
theorem encode_compress : encode .compress = 0x00000005 := by decide
theorem encode_run : encode .run = 0x00000006 := by decide

theorem openBuf_seq {mode : LengthFieldMode} {word : Word32} {s : State} (h : s.cfg = false ∨ s.src ≠ .none) :
    openBuf mode word s = commandError .seq word s := if_pos h

theorem openStream_seq {word : Word32} {s : State} (h : s.cfg = false ∨ s.src ≠ .none) :
    openStream word s = commandError .seq word s := if_pos h

/-- Settles O16: each check is the first branch of its command. -/
theorem sequencingChecksRaiseSeq : Obligations.SequencingChecksRaiseSeq := by
  unfold Obligations.SequencingChecksRaiseSeq
  intro s herr
  refine ⟨fun h => ⟨?_, ?_⟩, fun h => ⟨?_, ?_⟩, fun h => ?_⟩
  · rw [exec_openBuf herr, openBuf_seq h, encode_openBuf, commandError]
  · rw [exec_openStream herr, openStream_seq h, encode_openStream, commandError]
  · rw [exec_next_checked herr, if_pos h, encode_next, commandError]
  · rw [exec_run herr, if_pos h, encode_run, commandError]
  · rw [exec_compress_of_unconfigured herr h, encode_compress, commandError]

/-- Settles O28: past its check RUN only sets BUSY. -/
theorem runSetsBusy : Obligations.RunSetsBusy := by
  unfold Obligations.RunSetsBusy
  intro s herr hcfg hsrc
  rw [exec_run herr, if_neg (by simp [hcfg, hsrc])]

/-! ### Frames of the control commands -/

theorem initialise_answers (a : Alg) (s : State) :
    (initialise a s).provider.opens = s.provider.opens ∧ (initialise a s).provider.reads = s.provider.reads ∧
      (initialise a s).provider.opened = s.provider.opened := by
  rw [initialise_provider]
  split_ifs <;> simp

/-- Settles O56: an error-free command took its last branch, and an INIT is one of three. -/
theorem controlCommandsFrame : Obligations.ControlCommandsFrame := by
  unfold Obligations.ControlCommandsFrame
  intro s t herr herr'
  refine ⟨fun h => ?_, fun h => ?_, fun h => ?_, fun h => ?_⟩
  · rw [exec_nop, Host.Outcome.next.injEq] at h
    exact h.symm
  · obtain ⟨a, rfl⟩ : ∃ a, t = initialise a s := by
      rcases h with h | h | h <;> cases h <;> exact ⟨_, rfl⟩
    obtain ⟨hopens, hreads, hopened⟩ := initialise_answers a s
    exact ⟨initialise_m a s, initialise_addr a s, initialise_nbits a s, initialise_busy a s, hopens, hreads, hopened,
      initialise_awaiting a s, fun _ => by rw [initialise_mem]⟩
  · rw [exec_compress herr] at h
    split_ifs at h <;> cases h
    · simp at herr'
    · simp
  · rw [exec_run herr] at h
    split_ifs at h <;> cases h
    · simp at herr'
    · simp

/-! ### STATUS -/

/-- Bit i of STATUS, field by field from the least significant up (R33). -/
theorem statusWord_getLsbD (s : State) (i : Nat) :
    (statusWord s).getLsbD i =
      if i < 2 then s.alg.code.getLsbD i
      else if i - 2 < 1 then (BitVec.ofBool s.cfg).getLsbD (i - 2)
      else if i - 3 < 2 then s.src.code.getLsbD (i - 3)
      else if i - 5 < 3 then s.ps.code.getLsbD (i - 5)
      else if i - 8 < 1 then (BitVec.ofBool s.exh).getLsbD (i - 8)
      else if i - 9 < 1 then (BitVec.ofBool s.bv).getLsbD (i - 9)
      else if i - 10 < 1 then (BitVec.ofBool s.busy).getLsbD (i - 10)
      else if i - 11 < 1 then (BitVec.ofBool s.sopen).getLsbD (i - 11)
      else if i - 12 < 4 then s.err.code.getLsbD (i - 12)
      else (0 : BitVec 48).getLsbD (i - 16) := by
  have hAppend : (statusWord s).getLsbD i = BitVec.getLsbD (w := 48 + 4 + 1 + 1 + 1 + 1 + 3 + 2 + 1 + 2)
      ((0 : BitVec 48) ++ s.err.code ++ BitVec.ofBool s.sopen ++ BitVec.ofBool s.busy ++ BitVec.ofBool s.bv
        ++ BitVec.ofBool s.exh ++ s.ps.code ++ s.src.code ++ BitVec.ofBool s.cfg ++ s.alg.code) i := rfl
  rw [hAppend]
  simp only [BitVec.getLsbD_append, Nat.sub_sub]

/-- Settles O49: each field stands at its bits of the concatenation, and the codes are the tables'. -/
theorem statusFieldsAreWhereTheHostReadsThem : Obligations.StatusFieldsAreWhereTheHostReadsThem := by
  unfold Obligations.StatusFieldsAreWhereTheHostReadsThem
  intro s
  have hStatus : readReg s 0x008 = statusWord s := rfl
  have hBit := statusWord_getLsbD s
  rw [hStatus]
  refine ⟨?_, (hBit 2).trans (by simp), ?_, ?_, (hBit 8).trans (by simp), (hBit 9).trans (by simp),
    (hBit 10).trans (by simp), (hBit 11).trans (by simp), ?_, ?_, by decide, by decide, by decide, by decide⟩
  · ext i hi
    simp (disch := omega) only [BitVec.extractLsb, BitVec.getElem_extractLsb', hBit, if_pos]
    rw [Nat.zero_add, BitVec.getLsbD_eq_getElem hi]
  case refine_5 =>
    ext i hi
    simp (disch := omega) only [BitVec.extractLsb, BitVec.getElem_extractLsb', hBit, if_neg]
    simp
  all_goals
    ext i hi
    simp (disch := omega) only [BitVec.extractLsb, BitVec.getElem_extractLsb', hBit, if_neg, if_pos]
    rw [Nat.add_sub_cancel_left, BitVec.getLsbD_eq_getElem hi]

end Sys2Proof.Machine
end

section
/-! PROOFS. Host memory and MemRead (R70 to R75), and the padder's commands OPEN_BUF, OPEN_STREAM and NEXT (R136 to R146): each branch of their pseudocode, and their frames. -/

namespace Sys2Proof.Machine

/-! ### Host memory -/

/-- Settles O60, from the two laws of a change. -/
theorem hostMemoryReadAfterChange : Obligations.HostMemoryReadAfterChange := by
  unfold Obligations.HostMemoryReadAfterChange
  intro mem a v hwf ha
  refine ⟨Memory.set_wf ha v hwf, ?_, fun a' hne => ?_⟩
  · rw [Memory.read_set hwf, if_pos rfl]
  · rw [Memory.read_set hwf, if_neg hne]

/-- What the bus gives is the free byte where the address is marked, and memory's byte elsewhere (R75). -/
theorem busByte_eq_some {mem : Memory} {dirty : List Nat} {k a : Nat} {x : Byte} :
    busByte mem dirty k a = some x ↔
      ∃ b, mem.read a = some b ∧ x = if a ∈ dirty then Config.freeByte k else b := by
  rw [busByte, Option.map_eq_some_iff]
  simp only [eq_comm]

/-- Settles O58: a MemRead is the bus byte by byte, and answers exactly when memory answers every byte. -/
theorem memReadAnswersTheBytes : Obligations.MemReadAnswersTheBytes := by
  unfold Obligations.MemReadAnswersTheBytes
  intro mem dirty k addr n
  refine ⟨fun bytes => ?_, ?_, by simp only [memRead]⟩
  · simp only [memRead_eq_some, busByte_eq_some]
  · rw [← Option.not_isSome_iff_eq_none, memRead_isSome]
    simp

/-- A store to a byte still to be read marks it, and keeps the marks there are (R75). -/
theorem mem_dirty_hostMemory {s : State} {a : BitVec 64} {b : Byte} (h : unreadBufferByte s a.toNat = true) (x : Nat) :
    x ∈ (hostMemory a (some b) s).dirty ↔ x = a.toNat ∨ x ∈ s.dirty := by
  by_cases hd : a.toNat ∈ s.dirty
  · have hKept : (hostMemory a (some b) s).dirty = s.dirty := by simp [hostMemory, hd]
    rw [hKept]
    exact ⟨.inr, fun hx => hx.elim (fun e => e ▸ hd) id⟩
  · have hMarked : (hostMemory a (some b) s).dirty = a.toNat :: s.dirty := by simp [hostMemory, h, hd]
    rw [hMarked, List.mem_cons]

/-! ### NEXT, branch by branch -/

/-- In BUFFER mode the pseudocode is NextBuffer, until the padding is all emitted (R139, R144). -/
theorem nextBlock_buffer (word : Word32) {s : State} (hsrc : s.src = .buffer) (hok : invariantBroken s = false)
    (hps : s.ps ≠ .allPaddingEmitted) : nextBlock word s = nextBuffer word s := by
  simp [nextBlock, hok, hps, hsrc]

/-- A buffer with blocks to read has one of the two PaddingStatus of OPEN_BUF (R144). -/
theorem invariantBroken_unreadBuffer {s : State} (hsrc : s.src = .buffer) (hfull : s.fullrem ≠ 0) :
    invariantBroken s = false ↔ s.ps = .paddedSingleBlock ∨ s.ps = .paddedDoubleBlock := by
  have hfull : ¬ s.fullrem = 0#64 := hfull
  cases hps : s.ps <;> simp [invariantBroken, hsrc, hfull, hps]

/-- A full block of a buffer, as the bus answers it (R140). -/
theorem nextBlock_fullBlock (word : Word32) {s : State} (hsrc : s.src = .buffer) (hfull : s.fullrem ≠ 0)
    (hps : s.ps = .paddedSingleBlock ∨ s.ps = .paddedDoubleBlock) :
    nextBlock word s = match memRead s.mem s.dirty s.draws s.bufpos.toNat s.alg.blockBytes with
      | none => .failed (sourceError .bus word s)
      | some block => .done (deliver block
        { s with
          bufpos := s.bufpos + BitVec.ofNat 64 s.alg.blockBytes
          fullrem := s.fullrem - 1
          draws := s.draws + s.alg.blockBytes }) := by
  have hEmitted : s.ps ≠ .allPaddingEmitted := by rcases hps with h | h <;> simp [h]
  rw [nextBlock_buffer word hsrc ((invariantBroken_unreadBuffer hsrc hfull).mpr hps) hEmitted, nextBuffer, if_pos hfull]
  rfl

section
variable (word : Word32) {s : State} (hsrc : s.src = .buffer) (hfull : s.fullrem = 0)
include hsrc hfull

/-- The only tail block of a buffer (R140). -/
theorem nextBlock_singleTail (hps : s.ps = .paddedSingleBlock) :
    nextBlock word s = .done (deliver (tailBlock s.alg s.tail 0) { s with ps := .allPaddingEmitted }) := by
  rw [nextBlock_buffer word hsrc ((invariantBroken_readBuffer hsrc hfull).mpr (by simp [hps])) (by simp [hps])]
  simp [nextBuffer, hfull, hps]

/-- The first of two tail blocks (R140). -/
theorem nextBlock_firstTail (hps : s.ps = .paddedDoubleBlock) :
    nextBlock word s = .done (deliver (tailBlock s.alg s.tail 0) { s with ps := .doubleBlockFirstHalfEmitted }) := by
  rw [nextBlock_buffer word hsrc ((invariantBroken_readBuffer hsrc hfull).mpr (by simp [hps])) (by simp [hps])]
  simp [nextBuffer, hfull, hps]

/-- The second of two tail blocks (R140). -/
theorem nextBlock_secondTail (hps : s.ps = .doubleBlockFirstHalfEmitted) :
    nextBlock word s = .done (deliver (tailBlock s.alg s.tail 1) { s with ps := .allPaddingEmitted }) := by
  rw [nextBlock_buffer word hsrc ((invariantBroken_readBuffer hsrc hfull).mpr (by simp [hps])) (by simp [hps])]
  simp [nextBuffer, hfull, hps]

end

theorem tailBlock_zero_eq (a : Alg) (tail : Vector Byte 256) : tailBlock a tail 0 = tail.toList.take a.blockBytes := by
  simp [tailBlock]

theorem tailBlock_one_eq (a : Alg) (tail : Vector Byte 256) :
    tailBlock a tail 1 = (tail.toList.drop a.blockBytes).take a.blockBytes := by
  simp [tailBlock]

/-- Settles O20: the branches of NextBuffer, by FULLREM, the bus's answer and PS. -/
theorem nextBufferDeliversInOrder : Obligations.NextBufferDeliversInOrder := by
  unfold Obligations.NextBufferDeliversInOrder
  intro s herr hcfg hsrc
  dsimp only
  rw [exec_next_of_source herr hcfg (by simp [hsrc]), ← encode_next, ← tailBlock_zero_eq, ← tailBlock_one_eq]
  refine ⟨fun block hps hfull hr => ?_, fun hps hfull hr => ?_, fun hfull hps => ?_, fun hfull hps => ?_,
    fun hfull hps => ?_⟩
  · rw [nextBlock_fullBlock _ hsrc hfull hps, hr]
    rfl
  · rw [nextBlock_fullBlock _ hsrc hfull hps, hr]
    rfl
  · rw [nextBlock_singleTail _ hsrc hfull hps]
    rfl
  · rw [nextBlock_firstTail _ hsrc hfull hps]
    rfl
  · rw [nextBlock_secondTail _ hsrc hfull hps]
    rfl

/-- Settles O59: the store marks, and the block read is the bus's, byte by byte. -/
theorem storedBufferBytesAreFree : Obligations.StoredBufferBytesAreFree := by
  unfold Obligations.StoredBufferBytesAreFree
  refine ⟨fun s a b hsrc hlo hhi hwf => ?_, fun s herr hcfg hsrc hps hfull hAnswers => ?_⟩
  · have hUnread : unreadBufferByte s a.toNat = true := by simp [unreadBufferByte, hsrc, hlo, hhi]
    refine ⟨mem_dirty_hostMemory hUnread, ?_, fun x hne => ?_⟩
    · rw [hostMemory_mem, Memory.read_set hwf, if_pos rfl]
    · rw [hostMemory_mem, Memory.read_set hwf, if_neg hne]
  · obtain ⟨block, hblock⟩ : ∃ block, memRead s.mem s.dirty s.draws s.bufpos.toNat s.alg.blockBytes = some block :=
      Option.isSome_iff_exists.mp (memRead_isSome.mpr hAnswers)
    obtain ⟨hlen, hbytes⟩ := memRead_eq_some.mp hblock
    have hNext := (nextBufferDeliversInOrder s herr hcfg hsrc).1 block hps hfull hblock
    refine ⟨block, _, hlen, hNext, rfl, rfl, rfl, fun i hi => ?_⟩
    obtain ⟨b, hread, hbyte⟩ := busByte_eq_some.mp (hbytes i hi)
    refine ⟨fun hmarked => ?_, fun hclean => ?_⟩
    · rw [hbyte, if_pos hmarked]
    · rw [hread, hbyte, if_neg hclean]

/-- While a stream still reads the pseudocode is its StreamRead branch (R139, R141, R144). -/
theorem nextBlock_openStream (word : Word32) {s : State} (hsrc : s.src = .stream) (hps : s.ps = .unpadded)
    (hopen : s.sopen = true) : nextBlock word s = nextStream word s := by
  have hok : invariantBroken s = false := by simp [invariantBroken, hsrc, hps, hopen]
  simp [nextBlock, hok, hps, hsrc]

section
variable (word : Word32) {s : State} {bytes : List Byte}

theorem streamBytes_tooLong (h : 2 ^ s.alg.lenBits ≤ s.len.toNat + 8 * bytes.length) :
    streamBytes word bytes s = .failed (sourceError .length word s) := by
  rw [streamBytes, if_pos h, raiseError_length]

/-- A full read (R141). -/
theorem streamBytes_full (h : s.len.toNat + 8 * bytes.length < 2 ^ s.alg.lenBits)
    (hlen : bytes.length = s.alg.blockBytes) : streamBytes word bytes s =
      .done (deliver bytes { s with len := s.len + BitVec.ofNat 128 (8 * bytes.length) }) := by
  rw [streamBytes, if_neg (Nat.not_le.mpr h), if_pos hlen]

/-- A short read, which closes the stream and begins the padding (R141). -/
theorem streamBytes_short (h : s.len.toNat + 8 * bytes.length < 2 ^ s.alg.lenBits)
    (hlen : bytes.length < s.alg.blockBytes) (hopen : s.sopen = true) : streamBytes word bytes s =
      .done (deliver (streamFinalBlock s.alg bytes (s.len + BitVec.ofNat 128 (8 * bytes.length)).toNat)
        { s with
          len := s.len + BitVec.ofNat 128 (8 * bytes.length), sopen := false, provider := s.provider.streamClose
          ps := if fitsOneBlock s.alg bytes.length then .allPaddingEmitted else .doubleBlockFirstHalfEmitted }) := by
  rw [streamBytes, if_neg (Nat.not_le.mpr h), if_neg hlen.ne]
  simp [closeStream, hopen]

end

section
variable (word : Word32) {s : State} {p : Provider} (hsrc : s.src = .stream) (hps : s.ps = .unpadded)
  (hopen : s.sopen = true)
include hsrc hps hopen

theorem nextBlock_streamData {bytes : List Byte} (hr : s.provider.streamRead s.alg.blockBytes = (.data bytes, p)) :
    nextBlock word s = streamBytes word bytes { s with provider := p } := by
  rw [nextBlock_openStream word hsrc hps hopen, nextStream, if_pos hps, hr]

section
variable {bytes : List Byte} (hr : s.provider.streamRead s.alg.blockBytes = (.data bytes, p))
include hr

theorem nextBlock_tooLong (h : 2 ^ s.alg.lenBits ≤ s.len.toNat + 8 * bytes.length) :
    nextBlock word s = .failed (sourceError .length word { s with provider := p }) :=
  (nextBlock_streamData word hsrc hps hopen hr).trans (streamBytes_tooLong word h)

theorem nextBlock_fullRead (h : s.len.toNat + 8 * bytes.length < 2 ^ s.alg.lenBits)
    (hlen : bytes.length = s.alg.blockBytes) : nextBlock word s =
      .done (deliver bytes { s with provider := p, len := s.len + BitVec.ofNat 128 (8 * bytes.length) }) :=
  (nextBlock_streamData word hsrc hps hopen hr).trans (streamBytes_full word h hlen)

theorem nextBlock_shortRead (h : s.len.toNat + 8 * bytes.length < 2 ^ s.alg.lenBits)
    (hlen : bytes.length < s.alg.blockBytes) : nextBlock word s =
      .done (deliver (streamFinalBlock s.alg bytes (s.len + BitVec.ofNat 128 (8 * bytes.length)).toNat)
        { s with
          len := s.len + BitVec.ofNat 128 (8 * bytes.length), sopen := false, provider := p.streamClose
          ps := if fitsOneBlock s.alg bytes.length then .allPaddingEmitted else .doubleBlockFirstHalfEmitted }) :=
  (nextBlock_streamData word hsrc hps hopen hr).trans (streamBytes_short word h hlen hopen)

end

theorem nextBlock_streamIoerr (hr : s.provider.streamRead s.alg.blockBytes = (.ioerr, p)) :
    nextBlock word s = .failed (sourceError .io word { s with provider := p }) := by
  rw [nextBlock_openStream word hsrc hps hopen, nextStream, if_pos hps, hr]
  rfl

theorem nextBlock_streamLater (hr : s.provider.streamRead s.alg.blockBytes = (.later, p)) :
    nextBlock word s = .waiting { s with provider := p } := by
  rw [nextBlock_openStream word hsrc hps hopen, nextStream, if_pos hps, hr]

end

/-- The final block of a stream with room for the length field (R141). -/
theorem streamFinalBlock_of_fits {a : Alg} {t : List Byte} (h : fitsOneBlock a t.length = true) (len : Nat) :
    streamFinalBlock a t len
      = t ++ [0x80] ++ zeros (a.blockBytes - a.lenBytes - t.length - 1) ++ beBytes a.lenBytes len := by
  have hfit := fitsOneBlock_iff.mp h
  have hlen := tailBlocks_length (a := a) (t := t) (by omega) len
  have hSub : a.blockBytes - t.length - 1 - a.lenBytes = a.blockBytes - a.lenBytes - t.length - 1 := by omega
  rw [if_pos h] at hlen
  rw [streamFinalBlock_eq (by omega), List.take_of_length_le hlen.le, tailBlocks, if_pos h, hSub]

/-- The final block of a stream without that room (R141). -/
theorem streamFinalBlock_of_not_fits {a : Alg} {t : List Byte} (h : fitsOneBlock a t.length = false) (len : Nat) :
    streamFinalBlock a t len = t ++ [0x80] ++ zeros (a.blockBytes - t.length - 1) := by
  simp [streamFinalBlock, h]

/-- Settles O21: the answers of the StreamRead, and the lengths of its bytes, pick the branches of NextStream. -/
theorem nextStreamReadsInOrder : Obligations.NextStreamReadsInOrder := by
  unfold Obligations.NextStreamReadsInOrder
  intro s bytes listed herr hcfg hsrc hps hopen
  dsimp only
  have hL := s.alg.lenBytes_lt
  rw [exec_next_of_source herr hcfg (by simp [hsrc]), ← encode_next]
  refine ⟨fun hr hfit hk => ?_, fun hr hfit hk => ?_, fun hr hfit hk hk' => ?_, fun hr hlong => ?_, fun hr => ?_,
    fun hr => ?_⟩
  · rw [nextBlock_fullRead _ hsrc hps hopen hr hfit hk]
    rfl
  · have hRoom : fitsOneBlock s.alg bytes.length = true := fitsOneBlock_iff.mpr (by omega)
    rw [nextBlock_shortRead _ hsrc hps hopen hr hfit (by omega), streamFinalBlock_of_fits hRoom, if_pos hRoom]
    rfl
  · have hRoom : fitsOneBlock s.alg bytes.length = false := by
      rw [Bool.eq_false_iff, ne_eq, fitsOneBlock_iff]
      omega
    rw [nextBlock_shortRead _ hsrc hps hopen hr hfit hk', streamFinalBlock_of_not_fits hRoom, if_neg (by simp [hRoom])]
    rfl
  · rw [nextBlock_tooLong _ hsrc hps hopen hr hlong]
    rfl
  · rw [nextBlock_streamIoerr _ hsrc hps hopen hr]
    rfl
  · rw [nextBlock_streamLater _ hsrc hps hopen hr]
    rfl

/-- Settles O25: each combination is a clause of InvariantBroken, and all of them have a source. -/
theorem impossiblePaddingStateRaisesInvariant : Obligations.ImpossiblePaddingStateRaisesInvariant := by
  unfold Obligations.ImpossiblePaddingStateRaisesInvariant
  intro s herr hcfg hcase
  have hBroken : s.src ≠ .none ∧ invariantBroken s = true := by
    rcases hcase with ⟨hsrc, hps⟩ | ⟨hsrc, hfull, hps⟩ | ⟨hsrc, hps⟩ | ⟨hsrc, hopen, hps⟩ | ⟨hsrc, hopen, hps⟩
    · simp [invariantBroken, hsrc, hps]
    · have hfull : ¬ s.fullrem = 0#64 := hfull
      rcases hps with hps | hps <;> simp [invariantBroken, hsrc, hfull, hps]
    · rcases hps with hps | hps <;> simp [invariantBroken, hsrc, hps]
    · simp [invariantBroken, hsrc, hopen, hps]
    · simp [invariantBroken, hsrc, hopen, hps]
  rw [exec_next_of_source herr hcfg hBroken.1, nextBlock, if_pos hBroken.2, encode_next]
  rfl

/-! ### StreamRead, OPEN_STREAM and OPEN_BUF -/

/-- Settles O22: the head of the list, or the answer for ever, picks the branch of StreamRead. -/
theorem streamReadGivesTheNextBytes : Obligations.StreamReadGivesTheNextBytes := by
  unfold Obligations.StreamReadGivesTheNextBytes
  intro n p
  refine ⟨fun bytes h => Provider.streamRead_length h, fun bytes more hl => ?_, fun more hl => ?_, fun more hl => ?_,
    fun hl => ⟨?_, fun bytes hr => ?_, fun hr => ?_, fun hr => ?_⟩, Provider.streamRead_rest n p,
    Provider.streamRead_opened n p, Provider.streamRead_closed n p, Provider.streamRead_opens n p⟩
  · have hRead : p.streamRead n = (.data (bytes.take n),
        { p with reads.listed := if bytes.length ≤ n then more else .data (bytes.drop n) :: more }) := by
      simp only [Provider.streamRead, hl]
    rw [hRead]
    exact ⟨rfl, fun h => if_neg (Nat.not_le.mpr h), fun h => if_pos h⟩
  · simp only [Provider.streamRead, hl, and_self]
  · simp only [Provider.streamRead, hl, and_self]
  · simp only [Provider.streamRead, hl]
    split <;> rfl
  · simp only [Provider.streamRead, hl, hr]
  · simp only [Provider.streamRead, hl, hr]
  · simp only [Provider.streamRead, hl, hr]

/-- Settles O19: the provider's next answer picks the branch of OPEN_STREAM. -/
theorem openStreamFollowsItsPseudocode : Obligations.OpenStreamFollowsItsPseudocode := by
  unfold Obligations.OpenStreamFollowsItsPseudocode
  intro s herr hcfg hsrc
  rw [exec_openStream herr, ← encode_openStream]
  refine ⟨fun hok => ?_, fun hfail => ?_⟩
  · rcases openStream_cases (encode .openStream) s with ⟨hseq, _⟩ | ⟨_, hfail, _⟩ | ⟨_, _, he⟩
    · simp [hcfg, hsrc] at hseq
    · simp [hok] at hfail
    · rw [he]
  · rcases openStream_cases (encode .openStream) s with ⟨hseq, _⟩ | ⟨_, _, he⟩ | ⟨_, hok, _⟩
    · simp [hcfg, hsrc] at hseq
    · rw [he]
    · simp [hfail] at hok

/-- OPEN_BUF past its sequencing check (R136). -/
theorem openBuf_of_closed {mode : LengthFieldMode} {word : Word32} {s : State} (hcfg : s.cfg = true)
    (hsrc : s.src = .none) : openBuf mode word s =
      if 2 ^ s.alg.lenBits ≤ lengthField mode s.nbits.toNat then sourceError .length word s
      else if 2 ^ 64 < s.addr.toNat + messageBytes s.nbits.toNat then sourceError .bus word s
      else match memRead s.mem [] 0
          (s.addr.toNat + messageBytes s.nbits.toNat / s.alg.blockBytes * s.alg.blockBytes)
          (messageBytes s.nbits.toNat % s.alg.blockBytes) with
        | none => sourceError .bus word s
        | some t => openedBuffer t (lengthField mode s.nbits.toNat) (messageBytes s.nbits.toNat / s.alg.blockBytes) s := by
  rw [openBuf, if_neg (by simp [hcfg, hsrc])]
  rfl

/-- OPEN_BUF on a buffer that fits and whose partial block answers (R136). -/
theorem openBuf_opens {mode : LengthFieldMode} {word : Word32} {s : State} {t : List Byte} (hcfg : s.cfg = true)
    (hsrc : s.src = .none) (hlf : lengthField mode s.nbits.toNat < 2 ^ s.alg.lenBits)
    (htop : s.addr.toNat + messageBytes s.nbits.toNat ≤ 2 ^ 64)
    (hr : memRead s.mem [] 0 (s.addr.toNat + messageBytes s.nbits.toNat / s.alg.blockBytes * s.alg.blockBytes)
      (messageBytes s.nbits.toNat % s.alg.blockBytes) = some t) :
    openBuf mode word s
      = openedBuffer t (lengthField mode s.nbits.toNat) (messageBytes s.nbits.toNat / s.alg.blockBytes) s := by
  rw [openBuf_of_closed hcfg hsrc, if_neg (Nat.not_le.mpr hlf), if_neg (Nat.not_lt.mpr htop), hr]

/-- R131's two values of the length field, as one condition. -/
theorem lengthField_eq (mode : LengthFieldMode) (nbits : Nat) :
    lengthField mode nbits = if mode = .rounded then 8 * ((nbits + 7) / 8) else nbits := by
  cases mode <;> rfl

/-- Settles O17: the checks in the order of the pseudocode, and the update of an opened source. -/
theorem openBufFollowsItsPseudocode : Obligations.OpenBufFollowsItsPseudocode := by
  unfold Obligations.OpenBufFollowsItsPseudocode
  intro mode s hcfg hsrc
  dsimp only
  have hBytes : (s.nbits.toNat + 7) / 8 = messageBytes s.nbits.toNat := rfl
  rw [← lengthField_eq, hBytes]
  refine ⟨fun hlf => ?_, fun hlf htop => ?_, fun hlf htop hr => ?_, fun t hlf htop hr => ?_, fun herr => ?_⟩
  · rw [openBuf_of_closed hcfg hsrc, if_pos hlf]
  · rw [openBuf_of_closed hcfg hsrc, if_neg (Nat.not_le.mpr hlf), if_pos htop]
  · rw [openBuf_of_closed hcfg hsrc, if_neg (Nat.not_le.mpr hlf), if_neg (Nat.not_lt.mpr htop), hr]
  · have hRem : (fitsOneBlock s.alg t.length = true) =
        (messageBytes s.nbits.toNat % s.alg.blockBytes ≤ s.alg.blockBytes - s.alg.lenBytes - 1) := by
      rw [memRead_length hr, fitsOneBlock, decide_eq_true_eq]
    rw [openBuf_opens hcfg hsrc hlf htop hr, openedBuffer]
    simp only [hRem]
  · rw [exec_openBuf herr, encode_openBuf]
    rfl

/-- nbytes fits in 64 bits (R131). -/
theorem messageBytes_lt (n : BitVec 64) : messageBytes n.toNat < 2 ^ 64 := by
  unfold messageBytes
  omega

theorem Alg.lenBits_le (a : Alg) : a.lenBits ≤ 128 := by cases a <;> decide

/-- Settles O18: a buffer that answers throughout answers its partial block, and then O17's last case opens it. -/
theorem openBufCompletes : Obligations.OpenBufCompletes := by
  unfold Obligations.OpenBufCompletes
  intro s herr hcfg hsrc hlf htop hAnswers
  have hDivMod := Nat.div_add_mod' (messageBytes s.nbits.toNat) s.alg.blockBytes
  obtain ⟨t, ht⟩ : ∃ t, memRead s.mem [] 0
      (s.addr.toNat + messageBytes s.nbits.toNat / s.alg.blockBytes * s.alg.blockBytes)
      (messageBytes s.nbits.toNat % s.alg.blockBytes) = some t := by
    refine Option.isSome_iff_exists.mp (memRead_isSome.mpr fun i hi => ?_)
    rw [Nat.add_assoc]
    exact hAnswers _ (by omega)
  have hFits : fitsOneBlock s.alg t.length = true ↔
      messageBytes s.nbits.toNat % s.alg.blockBytes ≤ s.alg.blockBytes - s.alg.lenBytes - 1 := by
    rw [memRead_length ht, fitsOneBlock, decide_eq_true_eq]
  have hFull : messageBytes s.nbits.toNat / s.alg.blockBytes < 2 ^ 64 :=
    (Nat.div_le_self _ _).trans_lt (messageBytes_lt s.nbits)
  have hLen : 8 * messageBytes s.nbits.toNat < 2 ^ 128 :=
    hlf.trans_le (Nat.pow_le_pow_right (by decide) s.alg.lenBits_le)
  refine ⟨openedBuffer t (8 * messageBytes s.nbits.toNat) (messageBytes s.nbits.toNat / s.alg.blockBytes) s,
    ?_, rfl, herr, rfl, ?_, ?_, rfl, rfl, rfl, ?_, ?_, rfl, hcfg, rfl, rfl, rfl, rfl, rfl, rfl, rfl, rfl, fun _ => rfl⟩
  · rw [exec_openBuf herr]
    exact congrArg _ (openBuf_opens (mode := .rounded) hcfg hsrc hlf htop ht)
  · rw [openedBuffer_fullrem, BitVec.toNat_ofNat, Nat.mod_eq_of_lt hFull]
  · rw [openedBuffer_len, BitVec.toNat_ofNat, Nat.mod_eq_of_lt hLen]
  · rw [← hFits, openedBuffer_ps]
    split_ifs with h <;> simp [h]
  · rw [openedBuffer_ps]
    split_ifs <;> simp

/-! ### Frames of the padder's commands -/

/-- The frame of NEXT, when it raises no error (R139 to R143). -/
theorem nextBlock_frame_of_ok {word : Word32} {s : State} (herr' : (nextBlock word s).state.err = .none) :
    (∃ t, nextBlock word s = .done t ∧ NextDone s t) ∨ (s.src ≠ .buffer ∧ ∃ listed,
      nextBlock word s = .waiting { s with provider.reads.listed := listed }) := by
  rcases nextBlock_ends word s with h | ⟨code, _, hcode, he⟩ | h
  · exact .inl h
  · simp [he, NextEnd.state, hcode] at herr'
  · exact .inr h

/-- Settles O55: an error-free command took its opening or delivering branch, which is one update. -/
theorem padderCommandsFrame : Obligations.PadderCommandsFrame := by
  unfold Obligations.PadderCommandsFrame
  intro s t herr herr'
  refine ⟨fun h => ?_, fun h => ?_, fun h => ?_⟩
  · rw [exec_openBuf herr, Host.Outcome.next.injEq] at h
    rcases openBuf_cases Config.nonalignedLengthField (encode .openBuf) s with ⟨_, he⟩ | ⟨code, hcode, he⟩ | ⟨_, _, _, _, he⟩
    · simp [← h, he] at herr'
    · simp [← h, he, hcode] at herr'
    · simp [← h, he]
  · rw [exec_openStream herr, Host.Outcome.next.injEq] at h
    rcases openStream_cases (encode .openStream) s with ⟨_, he⟩ | ⟨_, _, he⟩ | ⟨_, _, he⟩
    · simp [← h, he] at herr'
    · simp [← h, he] at herr'
    · simp [← h, he]
  · rw [exec_next_checked herr, Host.Outcome.next.injEq] at h
    subst h
    split_ifs at herr' ⊢ with hseq
    · simp at herr'
    · rcases nextBlock_frame_of_ok herr' with ⟨u, he, hu⟩ | ⟨hsrc, listed, he⟩
      · rw [he]
        obtain ⟨halg, hcfg, hsrc, hbusy, -, hcmd, haddr, hnbits, hh, htail, hmem, -⟩ := hu.frame
        exact ⟨halg, hcfg, hsrc, hbusy, hcmd, haddr, hnbits, hh, htail, hu.frame_buffer, hu.frame_stream, hu.exh,
          hu.eq_exhausted, fun a => congrArg (Memory.read · a) hmem⟩
      · have hps : s.ps ≠ .allPaddingEmitted := by
          intro hps
          unfold nextBlock at he
          split_ifs at he
        rw [he]
        exact ⟨rfl, rfl, rfl, rfl, rfl, rfl, rfl, rfl, rfl, fun hb => absurd hb hsrc, fun _ => ⟨rfl, rfl⟩, fun _ => rfl,
          fun h => absurd h hps, fun _ => rfl⟩

/-! ### ADDR and NBITS -/

/-- The same state with other operands. -/
abbrev State.withOperands (addr nbits : Reg) (s : State) : State := { s with addr := addr, nbits := nbits }

/-- The same end with a change of its state. -/
def NextEnd.map (f : State → State) : NextEnd → NextEnd
  | .done s => .done (f s)
  | .failed s => .failed (f s)
  | .waiting s => .waiting (f s)

section
variable (addr nbits : Reg) (word : Word32) (s : State)

theorem sourceError_withOperands (code : ErrCode) :
    sourceError code word (s.withOperands addr nbits) = (sourceError code word s).withOperands addr nbits := by
  rw [sourceError_eq, sourceError_eq]

theorem nextBuffer_withOperands :
    nextBuffer word (s.withOperands addr nbits) = (nextBuffer word s).map (State.withOperands addr nbits) := by
  have hBus := sourceError_withOperands addr nbits word s .bus
  unfold nextBuffer
  dsimp only [State.withOperands]
  split_ifs
  · split
    · exact congrArg NextEnd.failed hBus
    · rfl
  · split <;> rfl

theorem streamBytes_withOperands (bytes : List Byte) :
    streamBytes word bytes (s.withOperands addr nbits)
      = (streamBytes word bytes s).map (State.withOperands addr nbits) := by
  have hLength := sourceError_withOperands addr nbits word s .length
  unfold streamBytes
  simp only [closeStream_eq, State.withOperands]
  split_ifs
  case pos => exact congrArg NextEnd.failed hLength
  all_goals rfl

theorem nextStream_withOperands :
    nextStream word (s.withOperands addr nbits) = (nextStream word s).map (State.withOperands addr nbits) := by
  have hIo := sourceError_withOperands addr nbits word
    { s with provider := (s.provider.streamRead s.alg.blockBytes).2 } .io
  unfold nextStream
  dsimp only [State.withOperands]
  split_ifs
  · split
    · rfl
    · exact congrArg NextEnd.failed hIo
    · exact streamBytes_withOperands addr nbits word { s with provider := (s.provider.streamRead s.alg.blockBytes).2 } _
  · rfl

/-- NEXT does the same whatever ADDR and NBITS hold (R347). -/
theorem nextBlock_withOperands :
    nextBlock word (s.withOperands addr nbits) = (nextBlock word s).map (State.withOperands addr nbits) := by
  have hInvariant := sourceError_withOperands addr nbits word s .invariant
  have hBroken : invariantBroken (s.withOperands addr nbits) = invariantBroken s := rfl
  have hBuffer := nextBuffer_withOperands addr nbits word s
  have hStream := nextStream_withOperands addr nbits word s
  unfold nextBlock
  rw [hBroken, hBuffer, hStream]
  dsimp only [State.withOperands]
  split_ifs
  · exact congrArg NextEnd.failed hInvariant
  · rfl
  · rfl
  · rfl

theorem runStep_withOperands : runStep (s.withOperands addr nbits) = (runStep s).withOperands addr nbits := by
  have hNext := nextBlock_withOperands addr nbits (encode .run) { s with awaiting := false }
  unfold runStep
  dsimp only [State.withOperands] at hNext ⊢
  rw [hNext]
  cases nextBlock (encode .run) { s with awaiting := false } with
  | waiting t => rfl
  | failed t => rfl
  | done t =>
    dsimp only [NextEnd.map]
    split_ifs <;> rfl

/-- The commands on an open source do the same whatever ADDR and NBITS hold (R347). -/
theorem exec_withOperands {i : Instr} (hi : i = .next ∨ i = .compress ∨ i = .run) {t : State}
    (h : exec i s = .next t) : exec i (s.withOperands addr nbits) = .next (t.withOperands addr nbits) := by
  by_cases herr : s.err = .none
  · rcases hi with rfl | rfl | rfl
    · rw [exec_next_checked herr, Host.Outcome.next.injEq] at h
      rw [exec_next_checked (s := s.withOperands addr nbits) herr, nextBlock_withOperands, ← h]
      dsimp only [State.withOperands]
      split_ifs
      · rfl
      · cases nextBlock (encode .next) s <;> rfl
    · rw [exec_compress herr, Host.Outcome.next.injEq] at h
      rw [exec_compress (s := s.withOperands addr nbits) herr, ← h]
      dsimp only [State.withOperands]
      split_ifs <;> rfl
    · rw [exec_run herr, Host.Outcome.next.injEq] at h
      rw [exec_run (s := s.withOperands addr nbits) herr, ← h]
      dsimp only [State.withOperands]
      split_ifs <;> rfl
  · have hInit : ∀ a, i ≠ initOf a := by rcases hi with rfl | rfl | rfl <;> intro a <;> cases a <;> decide
    rw [exec_of_error herr hInit, Host.Outcome.next.injEq] at h
    rw [exec_of_error (s := s.withOperands addr nbits) herr hInit, h]

end

/-- Settles O57: changing the operands commutes with every part of NEXT, COMPRESS, RUN and a RunStep. -/
theorem openSourceIgnoresAddrAndNbits : Obligations.OpenSourceIgnoresAddrAndNbits := by
  unfold Obligations.OpenSourceIgnoresAddrAndNbits
  exact fun s addr nbits =>
    ⟨fun _ hi _ h => exec_withOperands addr nbits s hi h, runStep_withOperands addr nbits s⟩

end Sys2Proof.Machine
end

section
/-! PROOFS. The padded message and its blocks (R130 to R134, R137, R148), the length field in the last words (R183) and the digest (R185). -/

namespace Sys2Proof.Machine

/-! ### PadBytes and its blocks -/

theorem padBytes_length (a : Alg) (msg : List Byte) (lf : Nat) :
    (padBytes a msg lf).length = msg.length + 1 + padZeros a msg.length + a.lenBytes := by
  simp only [padBytes, List.length_append, List.length_singleton, zeros_length, beBytes_length]

/-- The zeros of PadBytes fill the last block, and fewer do not (R132). -/
theorem padZeros_spec (a : Alg) (n : Nat) : (n + 1 + padZeros a n + a.lenBytes) % a.blockBytes = 0 ∧
    ∀ y, (n + 1 + y + a.lenBytes) % a.blockBytes = 0 → padZeros a n ≤ y := by
  refine ⟨?_, fun y hy => ?_⟩
  · cases a <;> simp only [padZeros, Alg.blockBytes, Alg.lenBytes] <;> omega
  · cases a <;> simp only [padZeros, Alg.blockBytes, Alg.lenBytes] at hy ⊢ <;> omega

theorem blockBytes_dvd_padBytes (a : Alg) (msg : List Byte) (lf : Nat) :
    a.blockBytes ∣ (padBytes a msg lf).length := by
  rw [padBytes_length]
  exact Nat.dvd_of_mod_eq_zero (padZeros_spec a msg.length).1

/-- Whole blocks, cut and joined again, are what they were; each has BB bytes (R132). -/
theorem blocksOf_whole {a : Alg} {n : Nat} : ∀ {bytes : List Byte}, bytes.length = a.blockBytes * n →
    (blocksOf a bytes).flatten = bytes ∧ ∀ b ∈ blocksOf a bytes, b.length = a.blockBytes := by
  induction n with
  | zero =>
    intro bytes h
    rw [List.length_eq_zero_iff.mp h, blocksOf_nil]
    simp
  | succ n ih =>
    intro bytes h
    rw [Nat.mul_succ] at h
    have hFirst : (bytes.take a.blockBytes).length = a.blockBytes := by
      rw [List.length_take]
      omega
    have hBlocks := blocksOf_append (y := bytes.drop a.blockBytes) hFirst
    rw [List.take_append_drop] at hBlocks
    obtain ⟨hJoin, hLen⟩ := ih (bytes := bytes.drop a.blockBytes) (by rw [List.length_drop]; omega)
    rw [hBlocks]
    refine ⟨?_, List.forall_mem_cons.mpr ⟨hFirst, hLen⟩⟩
    rw [List.flatten_cons, hJoin, List.take_append_drop]

/-- Settles O45: the zeros are the least that fill whole blocks, and whole blocks are their slices. -/
theorem paddedMessageIsWholeBlocks : Obligations.PaddedMessageIsWholeBlocks := by
  unfold Obligations.PaddedMessageIsWholeBlocks
  intro a msg lf
  obtain ⟨n, hn⟩ := blockBytes_dvd_padBytes a msg lf
  obtain ⟨hJoin, hLen⟩ := blocksOf_whole hn
  obtain ⟨hFill, hLeast⟩ := padZeros_spec a msg.length
  refine ⟨⟨padZeros a msg.length, rfl, hFill, hLeast⟩, ⟨n, hn⟩, ?_, hJoin, hLen⟩
  rw [padBytes_length]
  omega

theorem blocksOf_length (a : Alg) (bytes : List Byte) : (blocksOf a bytes).length = bytes.length / a.blockBytes := by
  simp [blocksOf]

/-- The number of blocks of PadBytes is N of R134. -/
theorem blocksOf_padBytes_length (a : Alg) (msg : List Byte) (lf : Nat) :
    (blocksOf a (padBytes a msg lf)).length = blockCount a msg.length := by
  rw [blocksOf_length, padBytes_length, blockCount]
  cases a <;> simp only [padZeros, Alg.blockBytes, Alg.lenBytes] <;> omega

/-- The two forms of N in R134. -/
theorem blockCount_eq (a : Alg) (n : Nat) : blockCount a n =
    if n % a.blockBytes ≤ a.blockBytes - a.lenBytes - 1 then n / a.blockBytes + 1 else n / a.blockBytes + 2 := by
  unfold blockCount
  split_ifs with h
  all_goals cases a <;> simp only [Alg.blockBytes, Alg.lenBytes] at h ⊢ <;> omega

/-- Settles O47: both forms are the number of blocks. -/
theorem blockCountOfAMessage : Obligations.BlockCountOfAMessage := by
  unfold Obligations.BlockCountOfAMessage
  intro a msg lf
  exact ⟨(blocksOf_padBytes_length a msg lf).trans (blockCount_eq a msg.length), blocksOf_padBytes_length a msg lf⟩

/-- N blocks hold the message, a byte for the end mark, and the length field (R148). -/
theorem le_blockCount_mul (a : Alg) (n : Nat) : 8 * n + 8 + a.lenBits ≤ blockCount a n * (8 * a.blockBytes) := by
  unfold blockCount
  cases a <;> simp only [Alg.blockBytes, Alg.lenBytes, Alg.lenBits] <;> omega

/-- Settles O48, from the closed form of N and the rounding of NBITS. -/
theorem paddingIsLongEnough : Obligations.PaddingIsLongEnough := by
  unfold Obligations.PaddingIsLongEnough
  intro a msg lf nbits hbytes
  dsimp only
  rw [blocksOf_padBytes_length]
  refine ⟨Nat.le_add_left 1 _, le_blockCount_mul a msg.length, ?_⟩
  unfold messageBytes at hbytes
  omega

/-! ### The tail -/

/-- Whole blocks in front of a message stay in front of its padding (R132). -/
theorem padBytes_append {a : Alg} {n : Nat} : ∀ {x : List Byte}, x.length = a.blockBytes * n → ∀ (y : List Byte) (lf : Nat),
    padBytes a (x ++ y) lf = x ++ padBytes a y lf := by
  intro x hx y lf
  have hz : padZeros a (x ++ y).length = padZeros a y.length := by
    rw [padZeros, padZeros, List.length_append, hx, Nat.add_assoc, Nat.add_assoc, Nat.mul_add_mod, ← Nat.add_assoc]
  simp only [padBytes, hz, List.append_assoc]

/-- TAIL holds the tail blocks and then zeros (R137). -/
theorem tailBytes_toList {a : Alg} {t : List Byte} (ht : t.length < a.blockBytes) (lf : Nat) :
    (tailBytes a t lf).toList = tailBlocks a t lf ++ zeros (256 - (tailBlocks a t lf).length) := by
  have hl := tailBlocks_length ht lf
  have hb := a.blockBytes_le
  have hLe : (tailBlocks a t lf).length ≤ 256 := by rw [hl]; split_ifs <;> omega
  apply List.ext_getElem
  · simp
    omega
  · intro i h1 h2
    by_cases hi : i < (tailBlocks a t lf).length
    · simp [tailBytes, List.getElem_append_left hi, List.getD_eq_getElem?_getD, List.getElem?_eq_getElem hi]
    · have hOut : (tailBlocks a t lf)[i]? = none := List.getElem?_eq_none (Nat.le_of_not_lt hi)
      simp [tailBytes, List.getElem_append_right (Nat.le_of_not_lt hi), List.getD_eq_getElem?_getD, hOut, zeros]

/-- PadBytes is the full blocks of the message and then the tail blocks (R137). -/
theorem padBytes_eq_append_tailBlocks (a : Alg) (msg : List Byte) (lf : Nat) :
    padBytes a msg lf = msg.take (msg.length - msg.length % a.blockBytes)
      ++ tailBlocks a (msg.drop (msg.length - msg.length % a.blockBytes)) lf := by
  have hMod := Nat.div_add_mod msg.length a.blockBytes
  have hLt := Nat.mod_lt msg.length a.blockBytes_pos
  have hFront : (msg.take (msg.length - msg.length % a.blockBytes)).length
      = a.blockBytes * (msg.length / a.blockBytes) := by
    rw [List.length_take]
    omega
  have hRest : (msg.drop (msg.length - msg.length % a.blockBytes)).length < a.blockBytes := by
    rw [List.length_drop]
    omega
  rw [← padBytes_short hRest, ← padBytes_append hFront, List.take_append_drop]

/-- Settles O46: what stands after the full blocks is the tail blocks, and TAIL is the tail blocks and zeros. -/
theorem tailIsTheEndOfThePaddedMessage : Obligations.TailIsTheEndOfThePaddedMessage := by
  unfold Obligations.TailIsTheEndOfThePaddedMessage
  intro a msg lf
  dsimp only
  have hRem : (msg.drop (msg.length - msg.length % a.blockBytes)).length = msg.length % a.blockBytes := by
    have := Nat.mod_le msg.length a.blockBytes
    rw [List.length_drop]
    omega
  have hLt : (msg.drop (msg.length - msg.length % a.blockBytes)).length < a.blockBytes :=
    hRem.trans_lt (Nat.mod_lt _ a.blockBytes_pos)
  have hTail := tailBlocks_length hLt lf
  simp only [fitsOneBlock, decide_eq_true_eq, hRem] at hTail
  rw [← hTail, tailBytes_toList hLt, padBytes_eq_append_tailBlocks, List.length_append, Nat.add_sub_cancel]
  exact ⟨by rw [List.drop_left, List.take_left], by rw [List.drop_left, zeros]⟩

/-! ### The length field in M[14] and M[15] -/

/-- BE of a value in two parts: the upper bytes and the lower ones (R182). -/
theorem beBytes_add (m n v : Nat) : beBytes (m + n) v = beBytes m (v / 2 ^ (8 * n)) ++ beBytes n v := by
  induction m with
  | zero => simp [beBytes]
  | succ m ih =>
    rw [Nat.succ_add, beBytes, beBytes, ih, List.cons_append, Nat.shiftRight_eq_div_pow, Nat.shiftRight_eq_div_pow,
      Nat.div_div_eq_div_mul, ← Nat.pow_add]
    congr 4
    omega

/-- A word with a byte shifted in, where the word has room for it. -/
theorem toNat_shiftIn {w : Reg} (hw : w.toNat < 2 ^ 56) (b : Byte) :
    (w <<< 8 ||| b.zeroExtend 64).toNat = w.toNat * 2 ^ 8 + b.toNat := by
  have hb := b.isLt
  rw [BitVec.toNat_or, BitVec.toNat_shiftLeft, BitVec.toNat_setWidth, Nat.mod_eq_of_lt (a := b.toNat) (by omega),
    Nat.shiftLeft_eq, Nat.mod_eq_of_lt (by omega), ← Nat.shiftLeft_eq, Nat.shiftLeft_add_eq_or_of_lt hb]

/-- Normalize's word of BE_n(v) is v, cut to n bytes (R181, R182). -/
theorem toNat_beWord_beBytes {n : Nat} (hn : n ≤ 8) (v : Nat) : (beWord (beBytes n v)).toNat = v % 2 ^ (8 * n) := by
  induction n generalizing v with
  | zero => simp [beBytes, beWord, Nat.mod_one]
  | succ n ih =>
    have ih := ih (by omega) (v / 2 ^ 8)
    have hRoom : (beWord (beBytes n (v / 2 ^ 8))).toNat < 2 ^ 56 := by
      rw [ih]
      exact (Nat.mod_lt _ (Nat.two_pow_pos _)).trans_le (Nat.pow_le_pow_right (by decide) (by omega))
    have hByte : beBytes 1 v = [BitVec.ofNat 8 v] := by simp [beBytes]
    rw [beBytes_add n 1, hByte, beWord_concat, toNat_shiftIn hRoom, ih, BitVec.toNat_ofNat, Nat.mul_succ,
      Nat.add_comm (8 * n) 8, Nat.pow_add, Nat.mod_mul, Nat.mul_comm, Nat.add_comm]

theorem beWord_beBytes {n : Nat} (hn : n ≤ 8) (v : Nat) : beWord (beBytes n v) = BitVec.ofNat 64 (v % 2 ^ (8 * n)) := by
  have hLt : v % 2 ^ (8 * n) < 2 ^ 64 :=
    (Nat.mod_lt _ (Nat.two_pow_pos _)).trans_le (Nat.pow_le_pow_right (by decide) (by omega))
  apply BitVec.eq_of_toNat_eq
  rw [toNat_beWord_beBytes hn, BitVec.toNat_ofNat, Nat.mod_eq_of_lt hLt]

/-- The length field is two words (R2). -/
theorem Alg.lenBytes_eq_wordBytes (a : Alg) : a.lenBytes = a.wordBytes + a.wordBytes := by cases a <;> rfl

/-- The last two words of a block that ends in the length field (R183). -/
theorem normalize_lengthField {a : Alg} {front : List Byte} {lf : Nat} (hlen : front.length + a.lenBytes = a.blockBytes)
    (hlf : lf < 2 ^ a.lenBits) :
    (normalize a (front ++ beBytes a.lenBytes lf))[14] = BitVec.ofNat 64 (lf / 2 ^ (8 * a.wordBytes)) ∧
    (normalize a (front ++ beBytes a.lenBytes lf))[15] = BitVec.ofNat 64 (lf % 2 ^ (8 * a.wordBytes)) := by
  have hL := a.lenBytes_eq_wordBytes
  have hB := a.blockBytes_eq_wordBytes
  have hW := a.wordBytes_le
  have hBits : a.lenBits = 8 * a.wordBytes + 8 * a.wordBytes := by rw [Alg.lenBits, hL]; omega
  have hFront : a.wordBytes * 14 = front.length := by omega
  have hHigh : (beBytes a.wordBytes (lf / 2 ^ (8 * a.wordBytes))).length = a.wordBytes := beBytes_length _ _
  have hUpper : lf / 2 ^ (8 * a.wordBytes) < 2 ^ (8 * a.wordBytes) := by
    rw [hBits, Nat.pow_add] at hlf
    exact Nat.div_lt_of_lt_mul hlf
  rw [normalize_getElem _ _ (by decide), normalize_getElem _ _ (by decide), hL, beBytes_add]
  constructor
  · rw [hFront, List.drop_left, List.take_left' hHigh, beWord_beBytes hW, Nat.mod_eq_of_lt hUpper]
  · rw [← List.append_assoc, List.drop_left' (by rw [List.length_append, hHigh]; omega),
      List.take_of_length_le (beBytes_length _ _).le, beWord_beBytes hW]

/-- Settles O43: the length field is two words of WB bytes, 4 for SHA-256 and 8 for the others. -/
theorem lengthFieldLandsInTheLastWords : Obligations.LengthFieldLandsInTheLastWords := by
  unfold Obligations.LengthFieldLandsInTheLastWords
  intro a front lf hlen hlf
  have hWords := normalize_lengthField hlen hlf
  refine ⟨?_, fun ha => ?_⟩
  · rintro rfl
    exact hWords
  · have hWide : a.wordBytes = 8 := by cases a <;> simp_all [Alg.wordBytes]
    rw [hWide] at hWords
    exact hWords

/-! ### The digest -/

theorem length_flatMap_of_length {α β : Type} {f : α → List β} {k : Nat} (hf : ∀ x, (f x).length = k) (l : List α) :
    (l.flatMap f).length = l.length * k := by
  induction l with
  | nil => simp
  | cons x l ih => rw [List.flatMap_cons, List.length_append, hf, ih, List.length_cons, Nat.succ_mul, Nat.add_comm]

/-- Byte j of the i-th of several strings of k bytes, one after another. -/
theorem getElem?_flatMap_of_length {α β : Type} {f : α → List β} {k : Nat} (hf : ∀ x, (f x).length = k) {j : Nat}
    (hj : j < k) : ∀ (l : List α) (i : Nat), (l.flatMap f)[k * i + j]? = l[i]?.bind fun x => (f x)[j]?
  | [], _ => by simp
  | x :: l, 0 => by
    rw [List.flatMap_cons, Nat.mul_zero, Nat.zero_add, List.getElem?_append_left (by rw [hf]; exact hj)]
    rfl
  | x :: l, i + 1 => by
    rw [List.flatMap_cons, List.getElem?_append_right (by rw [hf, Nat.mul_succ]; omega), hf, Nat.mul_succ,
      show k * i + k + j - k = k * i + j by omega, getElem?_flatMap_of_length hf hj l i]
    rfl

theorem Alg.digestWords_le (a : Alg) : a.digestWords ≤ 8 := by cases a <;> decide

/-- The bytes that a digest word has are those of its register (R184, R185). -/
theorem extractLsb'_wordval {a : Alg} (r : Reg) {j : Nat} (hj : j < a.wordBytes) :
    (wordval a r).extractLsb' (8 * (a.wordBytes - 1 - j)) 8 = r.extractLsb' (8 * (a.wordBytes - 1 - j)) 8 := by
  cases a with
  | sha256 =>
    have hj : j < 4 := hj
    ext i hi
    have hIn : 8 * (4 - 1 - j) + i < 32 := by omega
    have hIn' : 8 * (4 - 1 - j) + i < 64 := by omega
    simp [wordval, zext64, lo, Alg.wordBytes, hIn, hIn']
  | sha512 => rfl
  | sha384 => rfl

/-- Settles O44: the digest is DW strings of WB bytes, each the big-endian bytes of its word. -/
theorem digestIsTheWordsBigEndian : Obligations.DigestIsTheWordsBigEndian := by
  unfold Obligations.DigestIsTheWordsBigEndian
  intro a h
  have hDW := a.digestWords_le
  refine ⟨?_, fun i hi j hj => ⟨by omega, ?_⟩⟩
  · rw [digestBytes, length_flatMap_of_length fun r : Reg => beBytes_length _ r.toNat]
    simp [digestWords, hDW]
  · have hWord : (digestWords a h)[i]? = some (wordval a h[i]) := by
      simp [digestWords, hi, show i < 8 by omega]
    have hByte : (beBytes a.wordBytes (wordval a h[i]).toNat)[j]?
        = some ((wordval a h[i]).extractLsb' (8 * (a.wordBytes - 1 - j)) 8) := by
      rw [List.getElem?_eq_getElem (by rw [beBytes_length]; exact hj), beBytes_getElem]
      rfl
    rw [digestBytes, getElem?_flatMap_of_length (fun r => beBytes_length _ _) hj, hWord, ← extractLsb'_wordval h[i] hj]
    exact hByte

end Sys2Proof.Machine
end

section
/-! PROOFS. The compression as a recurrence (R205 to R208, R246 to R249), for both engines at once, and the upper halves of H and M in SHA-256 mode (R184). -/

namespace Sys2Proof.Machine

/-! ### The schedule -/

section
variable {w : Nat} (E : Engine w)

/-- New words go in front of the older ones. -/
theorem extend_eq_append (n : Nat) : ∀ older : List (BitVec w), ∃ newer, E.extend n older = newer ++ older := by
  induction n with
  | zero => exact fun older => ⟨[], rfl⟩
  | succ n ih =>
    intro older
    obtain ⟨newer, h⟩ := ih (E.nextWord older :: older)
    exact ⟨newer ++ [E.nextWord older], by rw [Engine.extend, h, List.append_assoc, List.singleton_append]⟩

/-- In order of time the older words come first. -/
theorem extend_reverse_take (n : Nat) (older : List (BitVec w)) :
    (E.extend n older).reverse.take older.length = older.reverse := by
  obtain ⟨newer, h⟩ := extend_eq_append E n older
  rw [h, List.reverse_append, ← List.length_reverse, List.take_left]

/-- Each new word is made of the words before it (R205, R246). -/
theorem extend_reverse_getD (n : Nat) : ∀ (older : List (BitVec w)) (t : Nat), older.length ≤ t → t < older.length + n →
    (E.extend n older).reverse.getD t 0 = E.nextWord ((E.extend n older).reverse.take t).reverse := by
  induction n with
  | zero => exact fun older t hlo hhi => absurd hhi (Nat.not_lt.mpr hlo)
  | succ n ih =>
    intro older t hlo hhi
    rw [Engine.extend]
    rcases hlo.eq_or_lt with rfl | hlt
    · obtain ⟨newer, h⟩ := extend_eq_append E n (E.nextWord older :: older)
      have hOrder : (E.extend n (E.nextWord older :: older)).reverse
          = older.reverse ++ E.nextWord older :: newer.reverse := by
        rw [h, List.reverse_append, List.reverse_cons, List.append_assoc, List.singleton_append]
      rw [hOrder, ← List.length_reverse (as := older), List.take_left, List.reverse_reverse]
      simp [List.getD_eq_getElem?_getD]
    · exact ih (E.nextWord older :: older) t hlt (by rw [List.length_cons]; omega)

/-- Counting back from the newest of the first t words. -/
theorem reverse_take_getD {α : Type} (d : α) {l : List α} {t i : Nat} (hi : i < t) (ht : t ≤ l.length) :
    (l.take t).reverse.getD i d = l.getD (t - (i + 1)) d := by
  have hLen : (l.take t).length = t := by rw [List.length_take]; omega
  rw [List.getD_eq_getElem?_getD, List.getD_eq_getElem?_getD, List.getElem?_reverse (by omega), hLen,
    List.getElem?_take_of_lt (by omega), Nat.sub_sub, Nat.add_comm 1 i]

section
variable (block : Vector (BitVec w) 16)

/-- The first 16 words of the schedule are the block (R205, R246). -/
theorem schedule_getD_block {t : Nat} (ht : t < 16) : (E.schedule block).getD t 0 = block[t] := by
  have hTake := extend_reverse_take E (E.k.length - 16) block.toList.reverse
  rw [List.length_reverse, Vector.length_toList, List.reverse_reverse] at hTake
  have hGet : (E.schedule block)[t]? = block.toList[t]? := by
    conv_rhs => rw [← hTake, List.getElem?_take_of_lt ht]
    rfl
  rw [List.getD_eq_getElem?_getD, hGet]
  simp [ht]

/-- The other words of the schedule satisfy the recurrence (R205, R246). -/
theorem schedule_getD_recurrence {t : Nat} (hlo : 16 ≤ t) (hhi : t < E.k.length) :
    (E.schedule block).getD t 0 = E.smallSigma1 ((E.schedule block).getD (t - 2) 0) + (E.schedule block).getD (t - 7) 0
      + E.smallSigma0 ((E.schedule block).getD (t - 15) 0) + (E.schedule block).getD (t - 16) 0 := by
  have hLen : t ≤ (E.schedule block).length := by
    rw [schedule_length E block (by omega)]
    exact hhi.le
  have hNew : (E.schedule block).getD t 0 = E.nextWord ((E.schedule block).take t).reverse :=
    extend_reverse_getD E (E.k.length - 16) block.toList.reverse t (by simpa using hlo) (by simp; omega)
  rw [hNew, Engine.nextWord, reverse_take_getD 0 (by omega) hLen, reverse_take_getD 0 (by omega) hLen,
    reverse_take_getD 0 (by omega) hLen, reverse_take_getD 0 (by omega) hLen]

end

/-! ### The rounds -/

/-- The working variables after the first t rounds (R206, R247). -/
def Engine.roundsUpTo (v : Working w) (ws : List (BitVec w)) (t : Nat) : Working w :=
  ((E.k.zip ws).take t).foldl (fun v kx => E.round v kx.1 kx.2) v

/-- One more round takes the next constant and the next schedule word (R206, R247). -/
theorem roundsUpTo_succ (v : Working w) {ws : List (BitVec w)} {t : Nat} (hk : t < E.k.length) (hws : t < ws.length) :
    E.roundsUpTo v ws (t + 1) = E.round (E.roundsUpTo v ws t) (E.k.getD t 0) (ws.getD t 0) := by
  have hzip : t < (E.k.zip ws).length := by rw [List.length_zip]; omega
  rw [Engine.roundsUpTo, List.take_succ_eq_append_getElem hzip, List.foldl_append, List.getElem_zip]
  simp [Engine.roundsUpTo, List.getD_eq_getElem?_getD, hk, hws]

/-- All the rounds (R208, R249). -/
theorem roundsUpTo_length (v : Working w) {ws : List (BitVec w)} (hws : ws.length = E.k.length) :
    E.roundsUpTo v ws E.k.length = E.runRounds v ws := by
  rw [Engine.roundsUpTo, Engine.runRounds, List.take_of_length_le]
  rw [List.length_zip]
  omega

/-- The compression is the recurrence of the schedule, the rounds and the final addition, for any engine. -/
theorem compress_recurrence (hk : 16 ≤ E.k.length) (hin : Vector (BitVec w) 8) (block : Vector (BitVec w) 16) :
    ∃ (W : Nat → BitVec w) (v : Nat → Working w),
      (∀ t, (ht : t < 16) → W t = block[t]) ∧
      (∀ t, 16 ≤ t → t < E.k.length →
        W t = E.smallSigma1 (W (t - 2)) + W (t - 7) + E.smallSigma0 (W (t - 15)) + W (t - 16)) ∧
      v 0 = { a := hin[0], b := hin[1], c := hin[2], d := hin[3], e := hin[4], f := hin[5], g := hin[6], h := hin[7] } ∧
      (∀ t, t < E.k.length → v (t + 1) = E.round (v t) (E.k.getD t 0) (W t)) ∧
      E.compress hin block = #v[hin[0] + (v E.k.length).a, hin[1] + (v E.k.length).b, hin[2] + (v E.k.length).c,
        hin[3] + (v E.k.length).d, hin[4] + (v E.k.length).e, hin[5] + (v E.k.length).f, hin[6] + (v E.k.length).g,
        hin[7] + (v E.k.length).h] := by
  have hLen := schedule_length E block hk
  refine ⟨fun t => (E.schedule block).getD t 0, E.roundsUpTo ⟨hin[0], hin[1], hin[2], hin[3], hin[4], hin[5], hin[6],
    hin[7]⟩ (E.schedule block), fun t ht => schedule_getD_block E block ht,
    fun t hlo hhi => schedule_getD_recurrence E block hlo hhi, rfl,
    fun t ht => roundsUpTo_succ E _ ht (ht.trans_eq hLen.symm), ?_⟩
  rw [roundsUpTo_length E _ hLen, Engine.compress]

end

/-- Settles O38: the general recurrence for the SHA-256 engine, whose table is the packed rows cut into words. -/
theorem compressTwoFiftySixIsTheRecurrence : Obligations.CompressTwoFiftySixIsTheRecurrence := by
  unfold Obligations.CompressTwoFiftySixIsTheRecurrence
  refine ⟨k256_length, by decide, fun hin block => ?_⟩
  exact compress_recurrence sha256Engine (by decide) hin block

/-- Settles O39: the same for the SHA-512 engine. -/
theorem compressFiveTwelveIsTheRecurrence : Obligations.CompressFiveTwelveIsTheRecurrence := by
  unfold Obligations.CompressFiveTwelveIsTheRecurrence
  refine ⟨k512_length, by decide, fun hin block => ?_⟩
  exact compress_recurrence sha512Engine (by decide) hin block

/-! ### Upper halves in SHA-256 mode -/

theorem zext64_upper (x : Word32) : (zext64 x).extractLsb 63 32 = 0 := by
  ext i hi
  simp [zext64]

/-- A word of SHA-256 has four bytes at most (R181, R184). -/
theorem normalize_sha256_upper (block : List Byte) {j : Nat} (hj : j < 16) :
    (normalize .sha256 block)[j].extractLsb 63 32 = 0 := by
  rw [normalize_getElem _ _ hj]
  ext k hk
  have hFour : ((block.drop (Alg.sha256.wordBytes * j)).take Alg.sha256.wordBytes).length ≤ 4 := List.length_take_le _ _
  have hZero := beWord_getLsbD_of_le ((block.drop (Alg.sha256.wordBytes * j)).take Alg.sha256.wordBytes)
    (k := 32 + k) (by omega)
  simp [hZero]

/-- NEXT writes M with a normalized block or not at all (R140 to R143, R304). -/
theorem nextBlock_m (word : Word32) (s : State) :
    (nextBlock word s).state.m = s.m ∨ ∃ block, (nextBlock word s).state.m = normalize s.alg block := by
  rcases nextBlock_ends word s with ⟨t, he, hd⟩ | ⟨code, listed, _, he⟩ | ⟨_, listed, he⟩ <;> rw [he]
  · cases hd with
    | exhausted => exact .inl rfl
    | buffer _ _ block => exact .inr ⟨block, rfl⟩
    | stream _ _ block => exact .inr ⟨block, rfl⟩
  · exact .inl (sourceError_m _ _ _)
  · exact .inl rfl

/-- Settles O40: the fold reads low halves and writes extended words, and NEXT writes normalized blocks. -/
theorem upperHalvesAreIgnoredInSha256 : Obligations.UpperHalvesAreIgnoredInSha256 := by
  unfold Obligations.UpperHalvesAreIgnoredInSha256
  refine ⟨fun h h' m m' hh hm => ?_, fun h m i hi => ?_, fun s t halg hnext hne j hj => ?_⟩
  · have hLoH : (Vector.ofFn fun i : Fin 8 => lo h[i]) = Vector.ofFn fun i : Fin 8 => lo h'[i] :=
      congrArg Vector.ofFn (funext fun i => hh i i.isLt)
    have hLoM : (Vector.ofFn fun j : Fin 16 => lo m[j]) = Vector.ofFn fun j : Fin 16 => lo m'[j] :=
      congrArg Vector.ofFn (funext fun j => hm j j.isLt)
    rw [foldBlock, foldBlock, hLoH, hLoM]
  · simp only [foldBlock, initVector, Vector.getElem_ofFn]
    exact ⟨zext64_upper _, zext64_upper _⟩
  · by_cases herr : s.err = .none
    · rw [exec_next_checked herr, Host.Outcome.next.injEq] at hnext
      subst hnext
      split_ifs at hne ⊢
      · exact absurd rfl hne
      · rcases nextBlock_m (encode .next) s with hm | ⟨block, hm⟩
        · exact absurd hm hne
        · rw [getElem_congr_coll hm, getElem_congr_coll (congrArg (normalize · block) halg)]
          exact normalize_sha256_upper block hj
    · rw [exec_of_error herr fun a => by cases a <;> decide, Host.Outcome.next.injEq] at hnext
      exact absurd (congrArg State.m hnext.symm) hne

end Sys2Proof.Machine
end

section
/-! PROOFS. Whole computations (R147, R275, R276, R351): a RUN delivers the blocks of the padded message in order and ends, from a buffer and from a stream alike; a RUN on a silent provider, and on one that only gives full reads. -/

namespace Sys2Proof.Machine

/-! ### RunSteps -/

section
variable {s t : State}

theorem step_of_no_samples (hrst : s.rst = []) : step s = advance s := by
  simp only [step, hrst]

/-- A RUN beside an idle host and no reset takes a RunStep at every step (R276). -/
theorem step_of_run (hb : s.busy = true) (hrst : s.rst = []) (hag : s.agenda = []) : step s = .next (runStep s) :=
  (step_of_no_samples hrst).trans (advance_runStep hb hag)

theorem runStep_of_delivered (h : nextBlock (encode .run) { s with awaiting := false } = .done t) (hx : t.exh = false) :
    runStep s = compressBlock t := by
  rw [runStep, h]
  exact if_neg (by simp [hx])

theorem runStep_of_usedUp (h : UsedUp s) :
    runStep s = { exhausted { s with awaiting := false } with busy := false } := by
  rw [runStep, nextBlock_exhausted (s := { s with awaiting := false }) _ h.invariantBroken h.1]
  rfl

end

/-- The RunSteps from a state compress these blocks in order, and then the source is used up (R276). -/
inductive RunDelivers : State → List (List Byte) → Prop
  | usedUp {s : State} (h : UsedUp s) : RunDelivers s []
  | block {s : State} (t : State) (b : List Byte) (bs : List (List Byte)) (hrun : runStep s = compressBlock (deliver b t))
      (halg : t.alg = s.alg) (hh : t.h = s.h) (hcnt : t.blkcnt = s.blkcnt) (herr : t.err = s.err) (hbusy : t.busy = s.busy)
      (hnext : RunDelivers (runStep s) bs) : RunDelivers s (b :: bs)

/-- Such a RUN keeps BUSY for a RunStep a block, and one more RunStep ends it well (R275, R276). -/
theorem RunDelivers.run {s : State} {blocks : List (List Byte)} (h : RunDelivers s blocks) : s.busy = true →
    s.rst = [] → s.agenda = [] → s.err = .none →
    (∀ k, k ≤ blocks.length → ∃ u, core.run k s = .next u ∧ u.busy = true) ∧
    ∃ t, core.run (blocks.length + 1) s = .next t ∧ t.finished ∧
      t.blkcnt = s.blkcnt + BitVec.ofNat 64 blocks.length ∧ t.alg = s.alg ∧
      t.h = blocks.foldl (fun h b => foldBlock s.alg h (normalize s.alg b)) s.h := by
  induction h with
  | @usedUp s hUsed =>
    intro hb hrst hag herr
    refine ⟨fun k hk => ?_, runStep s, ?_, ?_, ?_⟩
    · rw [Nat.le_zero.mp hk]
      exact ⟨s, rfl, hb⟩
    · exact core_run_succ (step_of_run hb hrst hag) 0
    · rw [runStep_of_usedUp hUsed]
      exact ⟨rfl, rfl, herr⟩
    · rw [runStep_of_usedUp hUsed]
      exact ⟨(BitVec.add_zero _).symm, rfl, rfl⟩
  | @block s t b bs hrun halg hh hcnt herr' hbusy _ ih =>
    intro hb hrst hag herr
    have hSame := sameHostSide_runStep s
    have hBusy : (runStep s).busy = true := by rw [hrun]; exact hbusy.trans hb
    have hErr : (runStep s).err = .none := by rw [hrun]; exact herr'.trans herr
    have hAlg : (runStep s).alg = s.alg := by rw [hrun]; exact halg
    have hCnt : (runStep s).blkcnt = s.blkcnt + 1#64 := by rw [hrun]; exact congrArg (· + 1#64) hcnt
    have hH : (runStep s).h = foldBlock s.alg s.h (normalize s.alg b) := by
      rw [hrun, compressBlock_h, deliver_alg, deliver_h, deliver_m, halg, hh]
    have hStep := step_of_run hb hrst hag
    obtain ⟨hGoing, u, hEnd, hFin, hBlk, hAlgU, hHU⟩ := ih hBusy (hSame.rst.trans hrst) (hSame.agenda.trans hag) hErr
    refine ⟨fun k hk => ?_, u, ?_, hFin, ?_, hAlgU.trans hAlg, ?_⟩
    · cases k with
      | zero => exact ⟨s, rfl, hb⟩
      | succ k =>
        rw [core_run_succ hStep]
        exact hGoing k (Nat.le_of_succ_le_succ hk)
    · rw [List.length_cons, core_run_succ hStep]
      exact hEnd
    · have hOne : BitVec.ofNat 64 (bs.length + 1) = 1#64 + BitVec.ofNat 64 bs.length := by rw [Nat.add_comm, BitVec.ofNat_add]
      rw [hBlk, hCnt, List.length_cons, hOne, BitVec.add_assoc]
    · rw [hHU, hAlg, hH, List.foldl_cons]

/-- The blocks of a message shorter than a block are its tail blocks (R137). -/
theorem blocksOf_padBytes_short {a : Alg} {msg : List Byte} (h : msg.length < a.blockBytes) (lf : Nat) :
    blocksOf a (padBytes a msg lf) = if fitsOneBlock a msg.length then [(tailBlocks a msg lf).take a.blockBytes]
      else [(tailBlocks a msg lf).take a.blockBytes, (tailBlocks a msg lf).drop a.blockBytes] := by
  have hl := tailBlocks_length h lf
  rw [padBytes_short h]
  split_ifs at hl ⊢
  · rw [List.take_of_length_le hl.le, blocksOf_one hl]
  · have hFirst : ((tailBlocks a msg lf).take a.blockBytes).length = a.blockBytes := by rw [List.length_take]; omega
    have hSecond : ((tailBlocks a msg lf).drop a.blockBytes).length = a.blockBytes := by rw [List.length_drop]; omega
    have hBlocks := blocksOf_append (y := (tailBlocks a msg lf).drop a.blockBytes) hFirst
    rwa [List.take_append_drop, blocksOf_one hSecond] at hBlocks

/-- The first block of a longer message is its first BB bytes (R132). -/
theorem blocksOf_padBytes_full {a : Alg} {msg : List Byte} (h : a.blockBytes ≤ msg.length) (lf : Nat) :
    blocksOf a (padBytes a msg lf)
      = msg.take a.blockBytes :: blocksOf a (padBytes a (msg.drop a.blockBytes) lf) := by
  rw [padBytes_full h, blocksOf_append (by rw [List.length_take]; omega)]

/-- A source that delivers a full block and keeps the rest of the message, and whose end is the tail blocks, delivers the
blocks of the padded message: by induction on the number of full blocks. -/
theorem runDelivers_of_source {At : State → List Byte → Prop} {lf : Nat}
    (hshort : ∀ {s msg}, At s msg → msg.length < s.alg.blockBytes →
      RunDelivers s (blocksOf s.alg (padBytes s.alg msg lf)))
    (hfull : ∀ {s msg}, At s msg → s.alg.blockBytes ≤ msg.length → At (runStep s) (msg.drop s.alg.blockBytes) ∧
      ∃ t, runStep s = compressBlock (deliver (msg.take s.alg.blockBytes) t) ∧ t.alg = s.alg ∧ t.h = s.h ∧
        t.blkcnt = s.blkcnt ∧ t.err = s.err ∧ t.busy = s.busy) {n : Nat} :
    ∀ {s msg}, At s msg → msg.length / s.alg.blockBytes = n →
      RunDelivers s (blocksOf s.alg (padBytes s.alg msg lf)) := by
  induction n with
  | zero =>
    intro s msg h hn
    exact hshort h ((Nat.div_eq_zero_iff_lt s.alg.blockBytes_pos).mp hn)
  | succ n ih =>
    intro s msg h hn
    have hlen : s.alg.blockBytes ≤ msg.length := by
      by_contra hlt
      rw [Nat.div_eq_of_lt (Nat.lt_of_not_le hlt)] at hn
      cases hn
    obtain ⟨hNext, t, hRun, halg, hh, hcnt, herr, hbusy⟩ := hfull h hlen
    have hAlg : (runStep s).alg = s.alg := (runStep_alg_cfg s).1
    have hDiv := Nat.div_eq_sub_div s.alg.blockBytes_pos hlen
    have hRest := ih hNext (by rw [hAlg, List.length_drop]; omega)
    rw [hAlg] at hRest
    rw [blocksOf_padBytes_full hlen]
    exact .block t _ _ hRun halg hh hcnt herr hbusy hRest

/-! ### A buffer -/

/-- A MemRead with no marks answers the bytes of the message. -/
theorem memRead_of_holdsMessage {mem : Memory} {addr : Nat} {msg : List Byte} (h : holdsMessage mem addr msg)
    {i n : Nat} (hin : i + n ≤ msg.length) (k : Nat) :
    memRead mem [] k (addr + i) n = some ((msg.drop i).take n) := by
  refine memRead_eq_some.mpr ⟨by rw [List.length_take, List.length_drop]; omega, fun j hj => ?_⟩
  have hj : i + j < msg.length := by rw [List.length_take, List.length_drop] at hj; omega
  rw [busByte, Nat.add_assoc, h (i + j) hj]
  simp

/-- A BUFFER source whose bytes still to be read, with the tail, are this message (R72, R136). -/
structure BufferAt (s : State) (msg : List Byte) (lf : Nat) : Prop where
  src : s.src = .buffer
  exh : s.exh = false
  clean : s.dirty = []
  ps : s.ps = if fitsOneBlock s.alg (msg.length % s.alg.blockBytes) then .paddedSingleBlock else .paddedDoubleBlock
  full : s.fullrem.toNat = msg.length / s.alg.blockBytes
  inRange : s.bufpos.toNat + msg.length ≤ 2 ^ 64
  held : holdsMessage s.mem s.bufpos.toNat msg
  tail : s.tail = tailBytes s.alg (msg.drop (msg.length - msg.length % s.alg.blockBytes)) lf

/-- The state after a full block has been read and compressed (R140, R276). -/
def afterFullBlock (s : State) : State :=
  { s with
    awaiting := false
    bufpos := s.bufpos + BitVec.ofNat 64 s.alg.blockBytes
    fullrem := s.fullrem - 1
    draws := s.draws + s.alg.blockBytes }

theorem BufferAt.runStep_full {s : State} {msg : List Byte} {lf : Nat} (h : BufferAt s msg lf)
    (hlen : s.alg.blockBytes ≤ msg.length) :
    runStep s = compressBlock (deliver (msg.take s.alg.blockBytes) (afterFullBlock s)) := by
  have hFull : s.fullrem ≠ 0 := by
    intro h0
    have hQuot := h.full
    rw [h0] at hQuot
    exact absurd hQuot.symm (Nat.div_pos hlen s.alg.blockBytes_pos).ne'
  have hPs : s.ps = .paddedSingleBlock ∨ s.ps = .paddedDoubleBlock := by
    rw [h.ps]
    split_ifs
    · exact .inl rfl
    · exact .inr rfl
  have hRead := memRead_of_holdsMessage h.held (i := 0) (n := s.alg.blockBytes) (by omega) s.draws
  rw [List.drop_zero, Nat.add_zero, ← h.clean] at hRead
  refine runStep_of_delivered ?_ h.exh
  rw [nextBlock_fullBlock (s := { s with awaiting := false }) _ h.src hFull hPs]
  dsimp only
  rw [hRead]
  rfl

/-- What is left after a full block is the rest of the message, with the same tail (R140). -/
theorem BufferAt.next {s : State} {msg : List Byte} {lf : Nat} (h : BufferAt s msg lf)
    (hlen : s.alg.blockBytes ≤ msg.length) : BufferAt (runStep s) (msg.drop s.alg.blockBytes) lf := by
  have hpos := s.alg.blockBytes_pos
  have hle := s.alg.blockBytes_le
  have hMod : (msg.length - s.alg.blockBytes) % s.alg.blockBytes = msg.length % s.alg.blockBytes :=
    (Nat.mod_eq_sub_mod hlen).symm
  have hDiv : msg.length / s.alg.blockBytes = (msg.length - s.alg.blockBytes) / s.alg.blockBytes + 1 :=
    Nat.div_eq_sub_div hpos hlen
  have hModLe := Nat.mod_le (msg.length - s.alg.blockBytes) s.alg.blockBytes
  have hRange := h.inRange
  have hPos : (afterFullBlock s).bufpos.toNat = (s.bufpos.toNat + s.alg.blockBytes) % 2 ^ 64 := by
    simp [afterFullBlock]
  rw [h.runStep_full hlen]
  exact {
    src := h.src
    exh := h.exh
    clean := h.clean
    ps := by
      rw [List.length_drop]
      exact hMod ▸ h.ps
    full := by
      have hFull := h.full.trans hDiv
      rw [List.length_drop]
      show (s.fullrem - 1#64).toNat = (msg.length - s.alg.blockBytes) / s.alg.blockBytes
      generalize (msg.length - s.alg.blockBytes) / s.alg.blockBytes = q at hFull ⊢
      bv_omega
    inRange := by
      rw [List.length_drop]
      show (afterFullBlock s).bufpos.toNat + (msg.length - s.alg.blockBytes) ≤ 2 ^ 64
      omega
    held := fun i hi => by
      have hi : s.alg.blockBytes + i < msg.length := by rw [List.length_drop] at hi; omega
      have hRead := h.held (s.alg.blockBytes + i) hi
      show s.mem.read ((afterFullBlock s).bufpos.toNat + i) = _
      rw [hPos, Nat.mod_eq_of_lt (by omega), Nat.add_assoc, hRead, List.getElem_drop]
    tail := by
      rw [List.drop_drop, List.length_drop]
      show s.tail = tailBytes s.alg (msg.drop (s.alg.blockBytes
        + (msg.length - s.alg.blockBytes - (msg.length - s.alg.blockBytes) % s.alg.blockBytes))) lf
      rw [h.tail, ← hMod]
      congr 2
      omega }

/-- The tail of a buffer: one block or two (R137, R140). -/
theorem BufferAt.runDelivers_short {s : State} {msg : List Byte} {lf : Nat} (h : BufferAt s msg lf)
    (hlen : msg.length < s.alg.blockBytes) : RunDelivers s (blocksOf s.alg (padBytes s.alg msg lf)) := by
  have hFull : s.fullrem = 0 := by
    have hQuot := h.full
    rw [Nat.div_eq_of_lt hlen] at hQuot
    exact BitVec.eq_of_toNat_eq hQuot
  have hPs := h.ps
  have hTail := h.tail
  rw [Nat.mod_eq_of_lt hlen] at hPs hTail
  rw [Nat.sub_self, List.drop_zero] at hTail
  rw [blocksOf_padBytes_short hlen]
  cases hFits : fitsOneBlock s.alg msg.length with
  | true =>
    rw [hFits, if_pos rfl] at hPs
    have hRun := runStep_of_delivered
      (nextBlock_singleTail (s := { s with awaiting := false }) (encode .run) h.src hFull hPs) h.exh
    dsimp only at hRun
    rw [hTail, tailBlock_zero hlen] at hRun
    refine .block _ _ _ hRun rfl rfl rfl rfl rfl (.usedUp ?_)
    rw [hRun]
    exact ⟨rfl, .inl ⟨h.src, hFull⟩⟩
  | false =>
    rw [hFits, if_neg Bool.false_ne_true] at hPs
    have hRun := runStep_of_delivered
      (nextBlock_firstTail (s := { s with awaiting := false }) (encode .run) h.src hFull hPs) h.exh
    have hRun2 := runStep_of_delivered (s := runStep s) (nextBlock_secondTail
      (s := { runStep s with awaiting := false }) (encode .run) (by rw [hRun]; exact h.src) (by rw [hRun]; exact hFull)
        (by rw [hRun]; rfl)) (by rw [hRun]; exact h.exh)
    have hTail2 : tailBlock (runStep s).alg (runStep s).tail 1 = (tailBlocks s.alg msg lf).drop s.alg.blockBytes := by
      rw [hRun]
      exact hTail ▸ tailBlock_one hlen hFits lf
    dsimp only at hRun hRun2
    rw [hTail, tailBlock_zero hlen] at hRun
    rw [hTail2] at hRun2
    refine .block _ _ _ hRun rfl rfl rfl rfl rfl (.block _ _ _ hRun2 rfl rfl rfl rfl rfl (.usedUp ?_))
    rw [hRun2]
    exact ⟨rfl, .inl ⟨by rw [hRun]; exact h.src, by rw [hRun]; exact hFull⟩⟩

/-- A RUN on a buffer delivers the blocks of the padded message (R140, R276). -/
theorem BufferAt.runDelivers {s : State} {msg : List Byte} {lf : Nat} (h : BufferAt s msg lf) :
    RunDelivers s (blocksOf s.alg (padBytes s.alg msg lf)) :=
  runDelivers_of_source (At := fun s msg => BufferAt s msg lf) BufferAt.runDelivers_short
    (fun h hlen => ⟨h.next hlen, _, h.runStep_full hlen, rfl, rfl, rfl, rfl, rfl⟩) h rfl

/-! ### A stream -/

/-- The coming answers of a provider are the bytes of the message and then the end of the stream (R77). -/
def Gives (reads : Answers ReadAnswer) (msg : List Byte) : Prop :=
  reads.rest = .data [] ∧ (reads.listed = [.data msg] ∨ (reads.listed = [] ∧ msg = []))

/-- A StreamRead takes the first n bytes of the message and leaves the others (R77, R79). -/
theorem Gives.streamRead {p : Provider} {msg : List Byte} (h : Gives p.reads msg) (n : Nat) :
    ∃ listed, p.streamRead n = (.data (msg.take n), { p with reads.listed := listed }) ∧
      Gives { p.reads with listed := listed } (msg.drop n) := by
  obtain ⟨hRest, hListed | ⟨hListed, rfl⟩⟩ := h
  · refine ⟨if msg.length ≤ n then [] else [.data (msg.drop n)], by simp only [Provider.streamRead, hListed], hRest, ?_⟩
    split_ifs with hn
    · exact .inr ⟨rfl, List.drop_of_length_le hn⟩
    · exact .inl rfl
  · have hRead : p.streamRead n = (.data (([] : List Byte).take n), p) := by
      simp only [Provider.streamRead, hListed, hRest]
    exact ⟨p.reads.listed, hRead, hRest, .inr ⟨hListed, List.drop_nil⟩⟩

/-- The count of message bits does not wrap while it fits its field (R46, R145). -/
theorem toNat_len_add {a : Alg} {len : BitVec 128} {k : Nat} (h : len.toNat + 8 * k < 2 ^ a.lenBits) :
    (len + BitVec.ofNat 128 (8 * k)).toNat = len.toNat + 8 * k := by
  have hTop : 2 ^ a.lenBits ≤ 2 ^ 128 := Nat.pow_le_pow_right (by decide) a.lenBits_le
  rw [BitVec.toNat_add, BitVec.toNat_ofNat, Nat.mod_eq_of_lt (a := 8 * k) (by omega), Nat.mod_eq_of_lt (by omega)]

/-- A STREAM source whose bytes still to be read are this message, lf being the bits of the whole (R138, R141). -/
structure StreamAt (s : State) (msg : List Byte) (lf : Nat) : Prop where
  src : s.src = .stream
  exh : s.exh = false
  ps : s.ps = .unpadded
  isOpen : s.sopen = true
  len : s.len.toNat + 8 * msg.length = lf
  fits : lf < 2 ^ s.alg.lenBits
  gives : Gives s.provider.reads msg

/-- The state after a full read has been delivered and compressed (R141, R276). -/
def afterFullRead (listed : List ReadAnswer) (s : State) : State :=
  { s with
    awaiting := false
    provider := { s.provider with reads.listed := listed }
    len := s.len + BitVec.ofNat 128 (8 * s.alg.blockBytes) }

/-- A full read delivers the first block, and leaves the rest of the message (R141). -/
theorem StreamAt.full {s : State} {msg : List Byte} {lf : Nat} (h : StreamAt s msg lf)
    (hlen : s.alg.blockBytes ≤ msg.length) : ∃ listed,
    runStep s = compressBlock (deliver (msg.take s.alg.blockBytes) (afterFullRead listed s)) ∧
      StreamAt (runStep s) (msg.drop s.alg.blockBytes) lf := by
  obtain ⟨listed, hRead, hGives⟩ := h.gives.streamRead s.alg.blockBytes
  have hTake : (msg.take s.alg.blockBytes).length = s.alg.blockBytes := by rw [List.length_take]; omega
  have hLf := h.len
  have hFit : s.len.toNat + 8 * s.alg.blockBytes < 2 ^ s.alg.lenBits := by
    have := h.fits
    omega
  have hRun : runStep s = compressBlock (deliver (msg.take s.alg.blockBytes) (afterFullRead listed s)) := by
    refine runStep_of_delivered ?_ h.exh
    rw [nextBlock_fullRead (s := { s with awaiting := false }) _ h.src h.ps h.isOpen hRead (by rw [hTake]; exact hFit) hTake,
      hTake]
    rfl
  refine ⟨listed, hRun, ?_⟩
  rw [hRun]
  exact {
    src := h.src
    exh := h.exh
    ps := h.ps
    isOpen := h.isOpen
    len := by
      rw [List.length_drop]
      show (s.len + BitVec.ofNat 128 (8 * s.alg.blockBytes)).toNat + 8 * (msg.length - s.alg.blockBytes) = lf
      rw [toNat_len_add hFit]
      omega
    fits := h.fits
    gives := hGives }

/-- The end of a stream: one block or two (R141, R142). -/
theorem StreamAt.runDelivers_short {s : State} {msg : List Byte} {lf : Nat} (h : StreamAt s msg lf)
    (hlen : msg.length < s.alg.blockBytes) : RunDelivers s (blocksOf s.alg (padBytes s.alg msg lf)) := by
  obtain ⟨listed, hRead, -⟩ := h.gives.streamRead s.alg.blockBytes
  rw [List.take_of_length_le hlen.le] at hRead
  have hFit : s.len.toNat + 8 * msg.length < 2 ^ s.alg.lenBits := h.len.trans_lt h.fits
  have hLen : (s.len + BitVec.ofNat 128 (8 * msg.length)).toNat = lf := (toNat_len_add hFit).trans h.len
  have hRun := runStep_of_delivered (nextBlock_shortRead (s := { s with awaiting := false }) (encode .run) h.src h.ps h.isOpen
    hRead hFit hlen) h.exh
  dsimp only at hRun
  rw [hLen, streamFinalBlock_eq hlen] at hRun
  rw [blocksOf_padBytes_short hlen]
  cases hFits : fitsOneBlock s.alg msg.length with
  | true =>
    rw [hFits] at hRun
    refine .block _ _ _ hRun rfl rfl rfl rfl rfl (.usedUp ?_)
    rw [hRun]
    exact ⟨rfl, .inr ⟨h.src, rfl⟩⟩
  | false =>
    rw [hFits] at hRun
    have hRun2 := runStep_of_delivered (s := runStep s) (nextBlock_lengthOnly (s := { runStep s with awaiting := false })
      (encode .run) (by rw [hRun]; exact h.src) (by rw [hRun]; rfl) (by rw [hRun]; rfl)) (by rw [hRun]; exact h.exh)
    have hBlock : streamLengthBlock (runStep s).alg (runStep s).len.toNat
        = (tailBlocks s.alg msg lf).drop s.alg.blockBytes := by
      have hLf : (runStep s).len.toNat = lf := by rw [hRun]; exact hLen
      rw [hLf, (runStep_alg_cfg s).1, streamLengthBlock_eq hlen hFits]
    dsimp only at hRun2
    rw [hBlock] at hRun2
    refine .block _ _ _ hRun rfl rfl rfl rfl rfl (.block _ _ _ hRun2 rfl rfl rfl rfl rfl (.usedUp ?_))
    rw [hRun2]
    exact ⟨rfl, .inr ⟨by rw [hRun]; exact h.src, by rw [hRun]; rfl⟩⟩

/-- A RUN on a stream delivers the blocks of the padded message (R141, R142, R276). -/
theorem StreamAt.runDelivers {s : State} {msg : List Byte} {lf : Nat} (h : StreamAt s msg lf) :
    RunDelivers s (blocksOf s.alg (padBytes s.alg msg lf)) :=
  runDelivers_of_source (At := fun s msg => StreamAt s msg lf) StreamAt.runDelivers_short
    (fun h hlen => by
      obtain ⟨_, hRun, hNext⟩ := h.full hlen
      exact ⟨hNext, _, hRun, rfl, rfl, rfl, rfl, rfl⟩) h rfl

/-! ### INIT, OPEN and RUN -/

/-- An open source that delivers the padded message, from the IV and a block count of 0, hashes it (R275, R276). -/
theorem run_hashes {s : State} {msg : List Byte} {lf : Nat}
    (h : RunDelivers s (blocksOf s.alg (padBytes s.alg msg lf))) (hb : s.busy = true) (hrst : s.rst = [])
    (hag : s.agenda = []) (herr : s.err = .none) (hcnt : s.blkcnt = 0) (hiv : s.h = initVector s.alg) :
    (∀ k, k ≤ blockCount s.alg msg.length → ∃ u, core.run k s = .next u ∧ u.busy = true) ∧
    ∃ t, core.run (blockCount s.alg msg.length + 1) s = .next t ∧ t.finished ∧
      t.blkcnt = BitVec.ofNat 64 (blockCount s.alg msg.length) ∧ t.alg = s.alg ∧ t.h = hashMessage s.alg msg lf := by
  obtain ⟨hGoing, t, hEnd, hFin, hBlk, hAlg, hH⟩ := h.run hb hrst hag herr
  rw [blocksOf_padBytes_length] at hGoing hEnd hBlk
  refine ⟨hGoing, t, hEnd, hFin, ?_, hAlg, ?_⟩
  · rw [hBlk, hcnt]
    exact BitVec.zero_add _
  · rw [hH, hiv, hashMessage]

/-- OPEN_BUF opens a source whose bytes to read are the message (R136). -/
theorem bufferAt_openedBuffer {s : State} {msg : List Byte} (lf : Nat) (htop : s.addr.toNat + msg.length ≤ 2 ^ 64)
    (hheld : holdsMessage s.mem s.addr.toNat msg) (hlen : msg.length < 2 ^ 64) :
    BufferAt { openedBuffer (msg.drop (msg.length - msg.length % s.alg.blockBytes)) lf (msg.length / s.alg.blockBytes) s with
      busy := true } msg lf where
  src := rfl
  exh := rfl
  clean := rfl
  ps := by
    have hRem : (msg.drop (msg.length - msg.length % s.alg.blockBytes)).length = msg.length % s.alg.blockBytes := by
      have := Nat.mod_le msg.length s.alg.blockBytes
      rw [List.length_drop]
      omega
    refine (openedBuffer_ps (msg.drop (msg.length - msg.length % s.alg.blockBytes)) lf
      (msg.length / s.alg.blockBytes) s).trans ?_
    rw [hRem]
    rfl
  full := by
    have hLt : msg.length / s.alg.blockBytes < 2 ^ 64 := (Nat.div_le_self _ _).trans_lt hlen
    exact (BitVec.toNat_ofNat ..).trans (Nat.mod_eq_of_lt hLt)
  inRange := htop
  held := hheld
  tail := rfl

/-- Settles O31: the opened buffer delivers the blocks of the padded message. -/
theorem runHashesTheBuffer : Obligations.RunHashesTheBuffer := by
  unfold Obligations.RunHashesTheBuffer
  intro a msg lf s hb ha hag hrst hlen hlf hfit htop hheld
  have hModLe := Nat.mod_le msg.length a.blockBytes
  have hDivMul : msg.length / a.blockBytes * a.blockBytes = msg.length - msg.length % a.blockBytes := by
    have := Nat.div_add_mod' msg.length a.blockBytes
    omega
  have hRead := memRead_of_holdsMessage hheld (i := msg.length - msg.length % a.blockBytes)
    (n := msg.length % a.blockBytes) (by omega) 0
  rw [List.take_of_length_le (by rw [List.length_drop]; omega), ← hDivMul] at hRead
  have hOpen : exec .openBuf (initialise a s) = .next (openedBuffer
      (msg.drop (msg.length - msg.length % a.blockBytes)) lf (msg.length / a.blockBytes) (initialise a s)) := by
    rw [exec_openBuf (initialise_err a s), openBuf_opens (t := msg.drop (msg.length - msg.length % a.blockBytes))] <;>
      simp only [initialise_cfg, initialise_src, initialise_alg, initialise_addr, initialise_nbits, initialise_mem, hlen, hlf]
    · exact hfit
    · exact htop
    · rw [← hDivMul]
      exact hRead
  have hAt := bufferAt_openedBuffer (s := initialise a s) (msg := msg) lf (by simpa using htop) (by simpa using hheld)
    (hlen ▸ messageBytes_lt s.nbits)
  have hHash := run_hashes hAt.runDelivers rfl (by simpa using hrst) (by simpa using hag) (by simp) rfl (by simp)
  simp only [openedBuffer_alg, initialise_alg] at hHash
  obtain ⟨hGoing, t, hEnd⟩ := hHash
  exact ⟨_, _, _, t, exec_initOf a s, hOpen, runSetsBusy _ (by simp) (by simp) (by simp), hGoing, hEnd⟩

/-- Settles O32: the opened stream delivers the blocks of the padded message. -/
theorem runHashesTheStream : Obligations.RunHashesTheStream := by
  unfold Obligations.RunHashesTheStream
  intro a msg s hb ha hag hrst hopens hreads hfit
  obtain ⟨hOpens, hReads, -⟩ := initialise_answers a s
  have hOpen := (openStreamFollowsItsPseudocode (initialise a s) (initialise_err a s) (initialise_cfg a s)
    (initialise_src a s)).1 (hOpens ▸ hopens)
  generalize hs2 : ({ initialise a s with
      provider := { (initialise a s).provider with
        opens := (initialise a s).provider.opens.pop.2, opened := (initialise a s).provider.opened + 1 }
      src := .stream, sopen := true, ps := .unpadded, len := 0, blkcnt := 0, exh := false, bv := false } : State) = s2
    at hOpen
  have hAt : StreamAt { s2 with busy := true } msg (8 * msg.length) := by
    subst hs2
    exact {
      src := rfl
      exh := rfl
      ps := rfl
      isOpen := rfl
      len := Nat.zero_add _
      fits := by simpa using hfit
      gives := by
        have hGives : (initialise a s).provider.reads = ⟨[.data msg], .data []⟩ := hReads.trans hreads
        show Gives (initialise a s).provider.reads msg
        rw [hGives]
        exact ⟨rfl, .inl rfl⟩ }
  subst hs2
  have hHash := run_hashes hAt.runDelivers rfl (by simpa using hrst) (by simpa using hag) (by simp) rfl (by simp)
  simp only [initialise_alg] at hHash
  obtain ⟨hGoing, t, hEnd⟩ := hHash
  exact ⟨_, _, _, t, exec_initOf a s, hOpen, runSetsBusy _ (by simp) (by simp) (by simp), hGoing, hEnd⟩

/-- Settles O33: both computations hash the same padded message (O31, O32). -/
theorem bufferAndStreamGiveTheSameDigest : Obligations.BufferAndStreamGiveTheSameDigest := by
  unfold Obligations.BufferAndStreamGiveTheSameDigest
  intro a msg s s' hb ha hag hrst hbits htop hheld hb' ha' hag' hrst' hopens hreads hfit
  have hBytes : messageBytes s.nbits.toNat = msg.length := by
    unfold messageBytes
    omega
  obtain ⟨s1, s2, s3, t, hInit, hOpen, hRun, hGoing, hEnd, hFin, hCnt, _, hH⟩ :=
    runHashesTheBuffer a msg (8 * msg.length) s hb ha hag hrst hBytes (congrArg (8 * ·) hBytes) hfit htop hheld
  obtain ⟨s1', s2', s3', t', hInit', hOpen', hRun', hGoing', hEnd', hFin', hCnt', _, hH'⟩ :=
    runHashesTheStream a msg s' hb' ha' hag' hrst' hopens hreads hfit
  have hSame : t.h = t'.h := hH.trans hH'.symm
  exact ⟨s1, s2, s3, t, s1', s2', s3', t', hInit, hOpen, hRun, hInit', hOpen', hRun',
    fun k hk => ⟨hGoing k hk, hGoing' k hk⟩, hEnd, hEnd', hFin, hFin', hSame, congrArg _ hSame, hCnt.trans hCnt'.symm⟩

/-! ### A RUN that does not end -/

/-- A RunStep on a silent provider only waits (R77, R317). -/
theorem runStep_silent {s : State} (hsrc : s.src = .stream) (hps : s.ps = .unpadded) (hopen : s.sopen = true)
    (hreads : s.provider.reads = { listed := [], rest := .later }) : runStep s = { s with awaiting := true } := by
  have hRead : s.provider.streamRead s.alg.blockBytes = (.later, s.provider) := by
    simp only [Provider.streamRead, hreads]
  rw [runStep, nextBlock_streamLater (s := { s with awaiting := false }) _ hsrc hps hopen hRead]

/-- Settles O34: a RunStep that waits leaves a state that waits again. -/
theorem silentProviderHangsTheRun : Obligations.SilentProviderHangsTheRun := by
  unfold Obligations.SilentProviderHangsTheRun
  intro s width off v later hb hsrc hps hopen hrst hreads hag n
  have hStep : ∀ u : State, u = s ∨ u = { s with awaiting := true } → step u = .next { s with awaiting := true } := by
    rintro u (rfl | rfl)
    · exact (step_of_no_samples hrst).trans ((advance_runStep_held hb hag).trans
        (congrArg _ (runStep_silent hsrc hps hopen hreads)))
    · exact (step_of_no_samples (s := { s with awaiting := true }) hrst).trans
        ((advance_runStep_held (s := { s with awaiting := true }) hb hag).trans
          (congrArg _ (runStep_silent (s := { s with awaiting := true }) hsrc hps hopen hreads)))
  have hRuns : ∀ u : State, u = s ∨ u = { s with awaiting := true } →
      core.run (n + 1) u = .next { s with awaiting := true } := by
    induction n with
    | zero => exact fun u hu => core_run_succ (hStep u hu) 0
    | succ n ih => exact fun u hu => (core_run_succ (hStep u hu) (n + 1)).trans (ih _ (.inr rfl))
  exact hRuns s (.inl rfl)

/-- A RunStep on a full read delivers it and counts it (R141, R276). -/
theorem runStep_fullRead {s : State} {block : List Byte} (hsrc : s.src = .stream) (hps : s.ps = .unpadded)
    (hopen : s.sopen = true) (hexh : s.exh = false) (hreads : s.provider.reads = { listed := [], rest := .data block })
    (hlen : block.length = s.alg.blockBytes) (hfit : s.len.toNat + 8 * s.alg.blockBytes < 2 ^ s.alg.lenBits) :
    runStep s = compressBlock (deliver block (afterFullRead s.provider.reads.listed s)) := by
  have hRead : s.provider.streamRead s.alg.blockBytes = (.data block, s.provider) := by
    simp only [Provider.streamRead, hreads]
    rw [List.take_of_length_le hlen.le]
  refine runStep_of_delivered ?_ hexh
  rw [nextBlock_fullRead (s := { s with awaiting := false }) _ hsrc hps hopen hRead (by rw [hlen]; exact hfit) hlen, hlen]
  rfl

/-- Settles O35: a RunStep on a full read leaves a RUN of the same form, one block and 8 BB bits further. -/
theorem fullReadsKeepTheRunGoing : Obligations.FullReadsKeepTheRunGoing := by
  unfold Obligations.FullReadsKeepTheRunGoing
  intro s block n
  induction n generalizing s with
  | zero =>
    intro hb _ hps hopen _ _ _ _ _ _
    exact ⟨s, rfl, hb, rfl, hps, hopen, (BitVec.add_zero _).symm, rfl⟩
  | succ n ih =>
    intro hb hsrc hps hopen hexh hrst hag hreads hlen hfit
    rw [Nat.mul_succ] at hfit
    have hFit : s.len.toNat + 8 * s.alg.blockBytes < 2 ^ s.alg.lenBits := by omega
    have hLen := toNat_len_add hFit
    have hRun := runStep_fullRead hsrc hps hopen hexh hreads hlen hFit
    have hSame := sameHostSide_runStep s
    have hAlg : (runStep s).alg = s.alg := (runStep_alg_cfg s).1
    have hCnt : (runStep s).blkcnt = s.blkcnt + 1#64 := by rw [hRun]; rfl
    have hNextLen : (runStep s).len.toNat = s.len.toNat + 8 * s.alg.blockBytes := by rw [hRun]; exact hLen
    have hNextErr : (runStep s).err = s.err := by rw [hRun]; rfl
    have hOne : BitVec.ofNat 64 (n + 1) = 1#64 + BitVec.ofNat 64 n := by rw [Nat.add_comm, BitVec.ofNat_add]
    obtain ⟨t, hEnd, hBusy, hErr, hPs, hOpen, hBlk, hBits⟩ := ih (runStep s) (by rw [hRun]; exact hb)
      (by rw [hRun]; exact hsrc) (by rw [hRun]; exact hps) (by rw [hRun]; exact hopen) (by rw [hRun]; exact hexh)
      (hSame.rst.trans hrst) (hSame.agenda.trans hag) (by rw [hRun]; exact hreads) (hlen.trans (congrArg _ hAlg.symm))
      (by rw [hNextLen, hAlg]; omega)
    rw [hNextLen, hAlg] at hBits
    refine ⟨t, (core_run_succ (step_of_run hb hrst hag) n).trans hEnd, hBusy, hErr.trans hNextErr, hPs, hOpen, ?_, ?_⟩
    · rw [hBlk, hCnt, hOne, BitVec.add_assoc]
    · rw [hBits, Nat.mul_succ]
      omega

end Sys2Proof.Machine
end
